-- ==== Sys2Proof/Word.lean ====
section
/-! DEFINITION. Word: the byte and the word of the core (spec/00_scope.md R9, R11): a byte is an 8-bit unsigned value, a word
a 16-bit one. Arithmetic on them wraps, as `+8`, `-8`, `+16` and `-16` of R13 do. -/

namespace Sys2Proof

/-- A byte: A, X, Y, S and a memory cell (R9). -/
abbrev Byte := BitVec 8

/-- A word: PC and an address (R9). -/
abbrev Word := BitVec 16

end Sys2Proof
end

