-- ==== Sys2Proof/Syntax.lean ====
section
/-! DEFINITION. Syntax: the addressing modes (spec/41_addressing.md R160), the operands they carry, the mnemonics of
spec/opcode_table.json and the instructions. One constructor of `Instr` per mnemonic of the table; where the table has
several rows for a mnemonic, the constructor's operand carries the addressing mode, so that a row of the table is a pair
(constructor, mode). The 104 rows named UNDOC are the one constructor `undoc`, which carries the byte (log 8). -/

namespace Sys2Proof

/-- The 13 addressing modes (spec/41_addressing.md R160). -/
inductive Mode where
  | implicit | accumulator | immediate
  | zeropage | zeropageX | zeropageY
  | absolute | absoluteX | absoluteY
  | indirect | indirectX | indirectY
  | relative
deriving DecidableEq, Repr

/-- The operand bytes each mode takes (spec/30_encoding.md R110, spec/41_addressing.md R160). -/
def Mode.operandLength : Mode → Nat
  | .implicit | .accumulator => 0
  | .immediate | .zeropage | .zeropageX | .zeropageY | .indirectX | .indirectY | .relative => 1
  | .absolute | .absoluteX | .absoluteY | .indirect => 2

/-- An operand: an addressing mode with the operand bytes, assembled as spec/30_encoding.md R113 says. -/
inductive Operand where
  /-- No operand. -/
  | implied
  /-- The accumulator A. -/
  | acc
  /-- `#v`: the data byte itself. -/
  | imm (v : Byte)
  /-- A zero-page address. -/
  | zp (b : Byte)
  /-- A zero-page address indexed by X. -/
  | zpX (b : Byte)
  /-- A zero-page address indexed by Y. -/
  | zpY (b : Byte)
  /-- An absolute address. -/
  | abs (w : Word)
  /-- An absolute address indexed by X. -/
  | absX (w : Word)
  /-- An absolute address indexed by Y. -/
  | absY (w : Word)
  /-- A pointer anywhere in memory (JMP only). -/
  | ind (w : Word)
  /-- A zero-page pointer indexed by X before it is followed. -/
  | indX (b : Byte)
  /-- A zero-page pointer, the word it holds indexed by Y. -/
  | indY (b : Byte)
  /-- A signed branch offset. -/
  | rel (o : Byte)
deriving DecidableEq, Repr

/-- The addressing mode of an operand. -/
def Operand.mode : Operand → Mode
  | .implied => .implicit
  | .acc => .accumulator
  | .imm _ => .immediate
  | .zp _ => .zeropage
  | .zpX _ => .zeropageX
  | .zpY _ => .zeropageY
  | .abs _ => .absolute
  | .absX _ => .absoluteX
  | .absY _ => .absoluteY
  | .ind _ => .indirect
  | .indX _ => .indirectX
  | .indY _ => .indirectY
  | .rel _ => .relative

/-- The operation names of spec/opcode_table.json. -/
inductive Mnemonic where
  | lda | ldx | ldy | sta | stx | sty
  | adc | sbc | and | ora | eor | bit
  | asl | lsr | rol | ror
  | cmp | cpx | cpy | inc | dec | inx | iny | dex | dey
  | bcc | bcs | beq | bne | bmi | bpl | bvc | bvs | jmp
  | pha | pla | php | plp
  | jsr | rts | brk | rti
  | sec | clc | sei | cli | sed | cld | clv | tax | tay | tsx | txa | txs | tya | nop
  | kil | undoc
deriving DecidableEq, Repr

/-- The instructions. -/
inductive Instr where
  -- Load and store: spec/42_load_store.md
  | lda (o : Operand)
  | ldx (o : Operand)
  | ldy (o : Operand)
  | sta (o : Operand)
  | stx (o : Operand)
  | sty (o : Operand)
  -- Arithmetic and logic: spec/43_arith_logic.md
  | adc (o : Operand)
  | sbc (o : Operand)
  | and (o : Operand)
  | ora (o : Operand)
  | eor (o : Operand)
  | bit (o : Operand)
  -- Shift and rotate: spec/44_shift_rotate.md
  | asl (o : Operand)
  | lsr (o : Operand)
  | rol (o : Operand)
  | ror (o : Operand)
  -- Compare, increment and decrement: spec/45_compare_incdec.md
  | cmp (o : Operand)
  | cpx (o : Operand)
  | cpy (o : Operand)
  | inc (o : Operand)
  | dec (o : Operand)
  | inx
  | iny
  | dex
  | dey
  -- Branch and jump: spec/46_branch_jump.md
  | bcc (off : Byte)
  | bcs (off : Byte)
  | beq (off : Byte)
  | bne (off : Byte)
  | bmi (off : Byte)
  | bpl (off : Byte)
  | bvc (off : Byte)
  | bvs (off : Byte)
  | jmp (o : Operand)
  -- Stack: spec/47_stack.md
  | pha
  | pla
  | php
  | plp
  -- Subroutine and interrupt: spec/48_subroutine_interrupt.md
  | jsr (target : Word)
  | rts
  | brk
  | rti
  -- Flag, transfer and no-op: spec/49_flags_transfer_nop.md
  | sec
  | clc
  | sei
  | cli
  | sed
  | cld
  | clv
  | tax
  | tay
  | tsx
  | txa
  | txs
  | tya
  | nop
  -- Dispatcher: spec/40_dispatcher.md
  | kil
  | undoc (op : Byte)
deriving DecidableEq, Repr

/-- The operation name of an instruction. -/
def Instr.mnemonic : Instr → Mnemonic
  | .lda _ => .lda
  | .ldx _ => .ldx
  | .ldy _ => .ldy
  | .sta _ => .sta
  | .stx _ => .stx
  | .sty _ => .sty
  | .adc _ => .adc
  | .sbc _ => .sbc
  | .and _ => .and
  | .ora _ => .ora
  | .eor _ => .eor
  | .bit _ => .bit
  | .asl _ => .asl
  | .lsr _ => .lsr
  | .rol _ => .rol
  | .ror _ => .ror
  | .cmp _ => .cmp
  | .cpx _ => .cpx
  | .cpy _ => .cpy
  | .inc _ => .inc
  | .dec _ => .dec
  | .inx => .inx
  | .iny => .iny
  | .dex => .dex
  | .dey => .dey
  | .bcc _ => .bcc
  | .bcs _ => .bcs
  | .beq _ => .beq
  | .bne _ => .bne
  | .bmi _ => .bmi
  | .bpl _ => .bpl
  | .bvc _ => .bvc
  | .bvs _ => .bvs
  | .jmp _ => .jmp
  | .pha => .pha
  | .pla => .pla
  | .php => .php
  | .plp => .plp
  | .jsr _ => .jsr
  | .rts => .rts
  | .brk => .brk
  | .rti => .rti
  | .sec => .sec
  | .clc => .clc
  | .sei => .sei
  | .cli => .cli
  | .sed => .sed
  | .cld => .cld
  | .clv => .clv
  | .tax => .tax
  | .tay => .tay
  | .tsx => .tsx
  | .txa => .txa
  | .txs => .txs
  | .tya => .tya
  | .nop => .nop
  | .kil => .kil
  | .undoc _ => .undoc

/-- The operand of an instruction. -/
def Instr.operand : Instr → Operand
  | .lda o => o
  | .ldx o => o
  | .ldy o => o
  | .sta o => o
  | .stx o => o
  | .sty o => o
  | .adc o => o
  | .sbc o => o
  | .and o => o
  | .ora o => o
  | .eor o => o
  | .bit o => o
  | .asl o => o
  | .lsr o => o
  | .rol o => o
  | .ror o => o
  | .cmp o => o
  | .cpx o => o
  | .cpy o => o
  | .inc o => o
  | .dec o => o
  | .jmp o => o
  | .bcc off => .rel off
  | .bcs off => .rel off
  | .beq off => .rel off
  | .bne off => .rel off
  | .bmi off => .rel off
  | .bpl off => .rel off
  | .bvc off => .rel off
  | .bvs off => .rel off
  | .jsr target => .abs target
  | .inx | .iny | .dex | .dey | .pha | .pla | .php | .plp | .rts | .brk | .rti | .sec | .clc | .sei | .cli | .sed
  | .cld | .clv | .tax | .tay | .tsx | .txa | .txs | .tya | .nop | .kil | .undoc _ => .implied

/-- The addressing mode the opcode table gives the instruction's row. -/
def Instr.mode (i : Instr) : Mode := i.operand.mode

/-- The length of an instruction in bytes: the opcode byte and the mode's operand bytes (spec/30_encoding.md R110, R120). -/
def Instr.length (i : Instr) : Nat := 1 + i.mode.operandLength

end Sys2Proof
end

