-- ==== Sys2Proof/WellFormed.lean ====
section
/-! DEFINITION. WellFormed: which operands an instruction may carry. The modes of each mnemonic are the "Operands" lines of
the family rules (spec/42_load_store.md to spec/46_branch_jump.md); the undocumented bytes are the list of
spec/30_encoding.md R118. An ill-formed term has no encoding. -/

namespace Sys2Proof

/-- The modes the family rules give each mnemonic that takes an operand of several modes. -/
def Mnemonic.operandModes : Mnemonic → List Mode
  | .lda | .adc | .sbc | .and | .ora | .eor | .cmp =>
    [.immediate, .zeropage, .zeropageX, .absolute, .absoluteX, .absoluteY, .indirectX, .indirectY]
  | .ldx =>
    [.immediate, .zeropage, .zeropageY, .absolute, .absoluteY]
  | .ldy =>
    [.immediate, .zeropage, .zeropageX, .absolute, .absoluteX]
  | .sta =>
    [.zeropage, .zeropageX, .absolute, .absoluteX, .absoluteY, .indirectX, .indirectY]
  | .stx =>
    [.zeropage, .zeropageY, .absolute]
  | .sty =>
    [.zeropage, .zeropageX, .absolute]
  | .bit =>
    [.zeropage, .absolute]
  | .asl | .lsr | .rol | .ror =>
    [.accumulator, .zeropage, .zeropageX, .absolute, .absoluteX]
  | .cpx | .cpy =>
    [.immediate, .zeropage, .absolute]
  | .inc | .dec =>
    [.zeropage, .zeropageX, .absolute, .absoluteX]
  | .jmp =>
    [.absolute, .indirect]
  | .bcc | .bcs | .beq | .bne | .bmi | .bpl | .bvc | .bvs => [.relative]
  | .jsr => [.absolute]
  | .inx | .iny | .dex | .dey | .pha | .pla | .php | .plp | .rts | .brk | .rti | .sec | .clc | .sei | .cli
  | .sed | .cld | .clv | .tax | .tay | .tsx | .txa | .txs | .tya | .nop | .kil | .undoc => [.implicit]

/-- The undocumented opcode bytes (spec/30_encoding.md R118), in four pieces. -/
def undocumentedBytes0 : List Byte :=
  [0x03, 0x04, 0x07, 0x0B, 0x0C, 0x0F, 0x12, 0x13, 0x14, 0x17, 0x1A, 0x1B, 0x1C,
   0x1F, 0x22, 0x23, 0x27, 0x2B, 0x2F, 0x32, 0x33, 0x34, 0x37, 0x3A, 0x3B, 0x3C]

def undocumentedBytes1 : List Byte :=
  [0x3F, 0x42, 0x43, 0x44, 0x47, 0x4B, 0x4F, 0x52, 0x53, 0x54, 0x57, 0x5A, 0x5B,
   0x5C, 0x5F, 0x62, 0x63, 0x64, 0x67, 0x6B, 0x6F, 0x72, 0x73, 0x74, 0x77, 0x7A]

def undocumentedBytes2 : List Byte :=
  [0x7B, 0x7C, 0x7F, 0x80, 0x82, 0x83, 0x87, 0x89, 0x8B, 0x8F, 0x92, 0x93, 0x97,
   0x9B, 0x9C, 0x9E, 0x9F, 0xA3, 0xA7, 0xAB, 0xAF, 0xB2, 0xB3, 0xB7, 0xBB, 0xBF]

def undocumentedBytes3 : List Byte :=
  [0xC2, 0xC3, 0xC7, 0xCB, 0xCF, 0xD2, 0xD3, 0xD4, 0xD7, 0xDA, 0xDB, 0xDC, 0xDF,
   0xE2, 0xE3, 0xE7, 0xEB, 0xEF, 0xF2, 0xF3, 0xF4, 0xF7, 0xFA, 0xFB, 0xFC, 0xFF]

/-- The 104 undocumented opcode bytes (spec/30_encoding.md R118). -/
def undocumentedBytes : List Byte :=
  undocumentedBytes0 ++ undocumentedBytes1 ++ undocumentedBytes2 ++ undocumentedBytes3

/-- An instruction is well formed when its mode is one its mnemonic has, and, for an undocumented byte, when the byte is
one of the 104. -/
def Instr.wellFormed : Instr → Bool
  | .undoc op => undocumentedBytes.contains op
  | i => i.mnemonic.operandModes.contains i.mode

end Sys2Proof
end

