-- ==== Sys2Proof/Decode.lean ====
section
/-! DEFINITION. Decode: the opcode matrix of spec/30_encoding.md R116 (byte to mnemonic and mode), the decoder, total on any
bytes and rejecting by name, and the encoder, written from the other table of R116 (mnemonic to mode and byte). The byte
values other than 0x02 are the spec's own supply (92_eei_decisions.md D2; log 7). -/

namespace Sys2Proof

/-- A word from its two bytes, little-endian (spec/20_memory.md R79, spec/00_scope.md R13). -/
def wordLE (lo hi : Byte) : Word := hi ++ lo

/-- The low byte of a word (spec/00_scope.md R13). -/
def loByte (w : Word) : Byte := w.extractLsb' 0 8

/-- The high byte of a word (spec/00_scope.md R13). -/
def hiByte (w : Word) : Byte := w.extractLsb' 8 8

/-- Row 0x of the opcode matrix (R116). -/
def opcodeRow0 : List (Mnemonic × Mode) :=
  [(.brk, .implicit), (.ora, .indirectX), (.kil, .implicit), (.undoc, .implicit),
   (.undoc, .implicit), (.ora, .zeropage), (.asl, .zeropage), (.undoc, .implicit),
   (.php, .implicit), (.ora, .immediate), (.asl, .accumulator), (.undoc, .implicit),
   (.undoc, .implicit), (.ora, .absolute), (.asl, .absolute), (.undoc, .implicit)]

/-- Row 1x of the opcode matrix (R116). -/
def opcodeRow1 : List (Mnemonic × Mode) :=
  [(.bpl, .relative), (.ora, .indirectY), (.undoc, .implicit), (.undoc, .implicit),
   (.undoc, .implicit), (.ora, .zeropageX), (.asl, .zeropageX), (.undoc, .implicit),
   (.clc, .implicit), (.ora, .absoluteY), (.undoc, .implicit), (.undoc, .implicit),
   (.undoc, .implicit), (.ora, .absoluteX), (.asl, .absoluteX), (.undoc, .implicit)]

/-- Row 2x of the opcode matrix (R116). -/
def opcodeRow2 : List (Mnemonic × Mode) :=
  [(.jsr, .absolute), (.and, .indirectX), (.undoc, .implicit), (.undoc, .implicit),
   (.bit, .zeropage), (.and, .zeropage), (.rol, .zeropage), (.undoc, .implicit),
   (.plp, .implicit), (.and, .immediate), (.rol, .accumulator), (.undoc, .implicit),
   (.bit, .absolute), (.and, .absolute), (.rol, .absolute), (.undoc, .implicit)]

/-- Row 3x of the opcode matrix (R116). -/
def opcodeRow3 : List (Mnemonic × Mode) :=
  [(.bmi, .relative), (.and, .indirectY), (.undoc, .implicit), (.undoc, .implicit),
   (.undoc, .implicit), (.and, .zeropageX), (.rol, .zeropageX), (.undoc, .implicit),
   (.sec, .implicit), (.and, .absoluteY), (.undoc, .implicit), (.undoc, .implicit),
   (.undoc, .implicit), (.and, .absoluteX), (.rol, .absoluteX), (.undoc, .implicit)]

/-- Row 4x of the opcode matrix (R116). -/
def opcodeRow4 : List (Mnemonic × Mode) :=
  [(.rti, .implicit), (.eor, .indirectX), (.undoc, .implicit), (.undoc, .implicit),
   (.undoc, .implicit), (.eor, .zeropage), (.lsr, .zeropage), (.undoc, .implicit),
   (.pha, .implicit), (.eor, .immediate), (.lsr, .accumulator), (.undoc, .implicit),
   (.jmp, .absolute), (.eor, .absolute), (.lsr, .absolute), (.undoc, .implicit)]

/-- Row 5x of the opcode matrix (R116). -/
def opcodeRow5 : List (Mnemonic × Mode) :=
  [(.bvc, .relative), (.eor, .indirectY), (.undoc, .implicit), (.undoc, .implicit),
   (.undoc, .implicit), (.eor, .zeropageX), (.lsr, .zeropageX), (.undoc, .implicit),
   (.cli, .implicit), (.eor, .absoluteY), (.undoc, .implicit), (.undoc, .implicit),
   (.undoc, .implicit), (.eor, .absoluteX), (.lsr, .absoluteX), (.undoc, .implicit)]

/-- Row 6x of the opcode matrix (R116). -/
def opcodeRow6 : List (Mnemonic × Mode) :=
  [(.rts, .implicit), (.adc, .indirectX), (.undoc, .implicit), (.undoc, .implicit),
   (.undoc, .implicit), (.adc, .zeropage), (.ror, .zeropage), (.undoc, .implicit),
   (.pla, .implicit), (.adc, .immediate), (.ror, .accumulator), (.undoc, .implicit),
   (.jmp, .indirect), (.adc, .absolute), (.ror, .absolute), (.undoc, .implicit)]

/-- Row 7x of the opcode matrix (R116). -/
def opcodeRow7 : List (Mnemonic × Mode) :=
  [(.bvs, .relative), (.adc, .indirectY), (.undoc, .implicit), (.undoc, .implicit),
   (.undoc, .implicit), (.adc, .zeropageX), (.ror, .zeropageX), (.undoc, .implicit),
   (.sei, .implicit), (.adc, .absoluteY), (.undoc, .implicit), (.undoc, .implicit),
   (.undoc, .implicit), (.adc, .absoluteX), (.ror, .absoluteX), (.undoc, .implicit)]

/-- Row 8x of the opcode matrix (R116). -/
def opcodeRow8 : List (Mnemonic × Mode) :=
  [(.undoc, .implicit), (.sta, .indirectX), (.undoc, .implicit), (.undoc, .implicit),
   (.sty, .zeropage), (.sta, .zeropage), (.stx, .zeropage), (.undoc, .implicit),
   (.dey, .implicit), (.undoc, .implicit), (.txa, .implicit), (.undoc, .implicit),
   (.sty, .absolute), (.sta, .absolute), (.stx, .absolute), (.undoc, .implicit)]

/-- Row 9x of the opcode matrix (R116). -/
def opcodeRow9 : List (Mnemonic × Mode) :=
  [(.bcc, .relative), (.sta, .indirectY), (.undoc, .implicit), (.undoc, .implicit),
   (.sty, .zeropageX), (.sta, .zeropageX), (.stx, .zeropageY), (.undoc, .implicit),
   (.tya, .implicit), (.sta, .absoluteY), (.txs, .implicit), (.undoc, .implicit),
   (.undoc, .implicit), (.sta, .absoluteX), (.undoc, .implicit), (.undoc, .implicit)]

/-- Row Ax of the opcode matrix (R116). -/
def opcodeRowA : List (Mnemonic × Mode) :=
  [(.ldy, .immediate), (.lda, .indirectX), (.ldx, .immediate), (.undoc, .implicit),
   (.ldy, .zeropage), (.lda, .zeropage), (.ldx, .zeropage), (.undoc, .implicit),
   (.tay, .implicit), (.lda, .immediate), (.tax, .implicit), (.undoc, .implicit),
   (.ldy, .absolute), (.lda, .absolute), (.ldx, .absolute), (.undoc, .implicit)]

/-- Row Bx of the opcode matrix (R116). -/
def opcodeRowB : List (Mnemonic × Mode) :=
  [(.bcs, .relative), (.lda, .indirectY), (.undoc, .implicit), (.undoc, .implicit),
   (.ldy, .zeropageX), (.lda, .zeropageX), (.ldx, .zeropageY), (.undoc, .implicit),
   (.clv, .implicit), (.lda, .absoluteY), (.tsx, .implicit), (.undoc, .implicit),
   (.ldy, .absoluteX), (.lda, .absoluteX), (.ldx, .absoluteY), (.undoc, .implicit)]

/-- Row Cx of the opcode matrix (R116). -/
def opcodeRowC : List (Mnemonic × Mode) :=
  [(.cpy, .immediate), (.cmp, .indirectX), (.undoc, .implicit), (.undoc, .implicit),
   (.cpy, .zeropage), (.cmp, .zeropage), (.dec, .zeropage), (.undoc, .implicit),
   (.iny, .implicit), (.cmp, .immediate), (.dex, .implicit), (.undoc, .implicit),
   (.cpy, .absolute), (.cmp, .absolute), (.dec, .absolute), (.undoc, .implicit)]

/-- Row Dx of the opcode matrix (R116). -/
def opcodeRowD : List (Mnemonic × Mode) :=
  [(.bne, .relative), (.cmp, .indirectY), (.undoc, .implicit), (.undoc, .implicit),
   (.undoc, .implicit), (.cmp, .zeropageX), (.dec, .zeropageX), (.undoc, .implicit),
   (.cld, .implicit), (.cmp, .absoluteY), (.undoc, .implicit), (.undoc, .implicit),
   (.undoc, .implicit), (.cmp, .absoluteX), (.dec, .absoluteX), (.undoc, .implicit)]

/-- Row Ex of the opcode matrix (R116). -/
def opcodeRowE : List (Mnemonic × Mode) :=
  [(.cpx, .immediate), (.sbc, .indirectX), (.undoc, .implicit), (.undoc, .implicit),
   (.cpx, .zeropage), (.sbc, .zeropage), (.inc, .zeropage), (.undoc, .implicit),
   (.inx, .implicit), (.sbc, .immediate), (.nop, .implicit), (.undoc, .implicit),
   (.cpx, .absolute), (.sbc, .absolute), (.inc, .absolute), (.undoc, .implicit)]

/-- Row Fx of the opcode matrix (R116). -/
def opcodeRowF : List (Mnemonic × Mode) :=
  [(.beq, .relative), (.sbc, .indirectY), (.undoc, .implicit), (.undoc, .implicit),
   (.undoc, .implicit), (.sbc, .zeropageX), (.inc, .zeropageX), (.undoc, .implicit),
   (.sed, .implicit), (.sbc, .absoluteY), (.undoc, .implicit), (.undoc, .implicit),
   (.undoc, .implicit), (.sbc, .absoluteX), (.inc, .absoluteX), (.undoc, .implicit)]

/-- The opcode matrix, one list per high nibble (R116). -/
def opcodeMatrix : List (List (Mnemonic × Mode)) :=
  [opcodeRow0, opcodeRow1, opcodeRow2, opcodeRow3, opcodeRow4, opcodeRow5, opcodeRow6, opcodeRow7] ++
  [opcodeRow8, opcodeRow9, opcodeRowA, opcodeRowB, opcodeRowC, opcodeRowD, opcodeRowE, opcodeRowF]

/-- The fixed mapping from opcode byte to mnemonic and mode (spec/30_encoding.md R112, R115). A byte the matrix does not
document is UNDOC; its row gives no operand bytes (log 4). -/
def opcode (op : Byte) : Mnemonic × Mode :=
  ((opcodeMatrix.getD (op.toNat / 16) []).getD (op.toNat % 16) (.undoc, .implicit))

/-- The operand a mode makes of the operand bytes (spec/30_encoding.md R113). -/
def Operand.ofBytes (mode : Mode) (b1 b2 : Byte) : Operand :=
  match mode with
  | .implicit => .implied
  | .accumulator => .acc
  | .immediate => .imm b1
  | .zeropage => .zp b1
  | .zeropageX => .zpX b1
  | .zeropageY => .zpY b1
  | .absolute => .abs (wordLE b1 b2)
  | .absoluteX => .absX (wordLE b1 b2)
  | .absoluteY => .absY (wordLE b1 b2)
  | .indirect => .ind (wordLE b1 b2)
  | .indirectX => .indX b1
  | .indirectY => .indY b1
  | .relative => .rel b1

/-- The instruction of a table row with its operand bytes; `op` is the opcode byte, which only UNDOC keeps. -/
def assemble (row : Mnemonic × Mode) (op b1 b2 : Byte) : Instr :=
  match row.1 with
  | .lda => .lda (Operand.ofBytes row.2 b1 b2)
  | .ldx => .ldx (Operand.ofBytes row.2 b1 b2)
  | .ldy => .ldy (Operand.ofBytes row.2 b1 b2)
  | .sta => .sta (Operand.ofBytes row.2 b1 b2)
  | .stx => .stx (Operand.ofBytes row.2 b1 b2)
  | .sty => .sty (Operand.ofBytes row.2 b1 b2)
  | .adc => .adc (Operand.ofBytes row.2 b1 b2)
  | .sbc => .sbc (Operand.ofBytes row.2 b1 b2)
  | .and => .and (Operand.ofBytes row.2 b1 b2)
  | .ora => .ora (Operand.ofBytes row.2 b1 b2)
  | .eor => .eor (Operand.ofBytes row.2 b1 b2)
  | .bit => .bit (Operand.ofBytes row.2 b1 b2)
  | .asl => .asl (Operand.ofBytes row.2 b1 b2)
  | .lsr => .lsr (Operand.ofBytes row.2 b1 b2)
  | .rol => .rol (Operand.ofBytes row.2 b1 b2)
  | .ror => .ror (Operand.ofBytes row.2 b1 b2)
  | .cmp => .cmp (Operand.ofBytes row.2 b1 b2)
  | .cpx => .cpx (Operand.ofBytes row.2 b1 b2)
  | .cpy => .cpy (Operand.ofBytes row.2 b1 b2)
  | .inc => .inc (Operand.ofBytes row.2 b1 b2)
  | .dec => .dec (Operand.ofBytes row.2 b1 b2)
  | .inx => .inx
  | .iny => .iny
  | .dex => .dex
  | .dey => .dey
  | .bcc => .bcc b1
  | .bcs => .bcs b1
  | .beq => .beq b1
  | .bne => .bne b1
  | .bmi => .bmi b1
  | .bpl => .bpl b1
  | .bvc => .bvc b1
  | .bvs => .bvs b1
  | .jmp => .jmp (Operand.ofBytes row.2 b1 b2)
  | .pha => .pha
  | .pla => .pla
  | .php => .php
  | .plp => .plp
  | .jsr => .jsr (wordLE b1 b2)
  | .rts => .rts
  | .brk => .brk
  | .rti => .rti
  | .sec => .sec
  | .clc => .clc
  | .sei => .sei
  | .cli => .cli
  | .sed => .sed
  | .cld => .cld
  | .clv => .clv
  | .tax => .tax
  | .tay => .tay
  | .tsx => .tsx
  | .txa => .txa
  | .txs => .txs
  | .tya => .tya
  | .nop => .nop
  | .kil => .kil
  | .undoc => .undoc op

/-- Why bytes are no instruction. Every opcode byte decodes (R115), so only missing bytes are rejected. -/
inductive DecodeError where
  /-- There is no opcode byte. -/
  | noOpcode
  /-- The opcode byte needs more operand bytes than there are. -/
  | missingOperand (op : Byte)
deriving DecidableEq, Repr

/-- Read one instruction from the front of the bytes: the instruction and the bytes after it. -/
def decode : List Byte → Except DecodeError (Instr × List Byte)
  | [] => .error .noOpcode
  | op :: rest =>
    match (opcode op).2.operandLength, rest with
    | 0, _ => .ok (assemble (opcode op) op 0 0, rest)
    | 1, b1 :: rest => .ok (assemble (opcode op) op b1 0, rest)
    | 2, b1 :: b2 :: rest => .ok (assemble (opcode op) op b1 b2, rest)
    | _, _ => .error (.missingOperand op)

/-- The opcode bytes of each mnemonic by mode, from the second table of R116. -/
def Mnemonic.encodings : Mnemonic → List (Mode × Byte)
  | .lda =>
    [(.immediate, 0xA9), (.zeropage, 0xA5), (.zeropageX, 0xB5), (.absolute, 0xAD),
     (.absoluteX, 0xBD), (.absoluteY, 0xB9), (.indirectX, 0xA1), (.indirectY, 0xB1)]
  | .ldx => [(.immediate, 0xA2), (.zeropage, 0xA6), (.zeropageY, 0xB6), (.absolute, 0xAE), (.absoluteY, 0xBE)]
  | .ldy => [(.immediate, 0xA0), (.zeropage, 0xA4), (.zeropageX, 0xB4), (.absolute, 0xAC), (.absoluteX, 0xBC)]
  | .sta =>
    [(.zeropage, 0x85), (.zeropageX, 0x95), (.absolute, 0x8D), (.absoluteX, 0x9D),
     (.absoluteY, 0x99), (.indirectX, 0x81), (.indirectY, 0x91)]
  | .stx => [(.zeropage, 0x86), (.zeropageY, 0x96), (.absolute, 0x8E)]
  | .sty => [(.zeropage, 0x84), (.zeropageX, 0x94), (.absolute, 0x8C)]
  | .adc =>
    [(.immediate, 0x69), (.zeropage, 0x65), (.zeropageX, 0x75), (.absolute, 0x6D),
     (.absoluteX, 0x7D), (.absoluteY, 0x79), (.indirectX, 0x61), (.indirectY, 0x71)]
  | .sbc =>
    [(.immediate, 0xE9), (.zeropage, 0xE5), (.zeropageX, 0xF5), (.absolute, 0xED),
     (.absoluteX, 0xFD), (.absoluteY, 0xF9), (.indirectX, 0xE1), (.indirectY, 0xF1)]
  | .and =>
    [(.immediate, 0x29), (.zeropage, 0x25), (.zeropageX, 0x35), (.absolute, 0x2D),
     (.absoluteX, 0x3D), (.absoluteY, 0x39), (.indirectX, 0x21), (.indirectY, 0x31)]
  | .ora =>
    [(.immediate, 0x09), (.zeropage, 0x05), (.zeropageX, 0x15), (.absolute, 0x0D),
     (.absoluteX, 0x1D), (.absoluteY, 0x19), (.indirectX, 0x01), (.indirectY, 0x11)]
  | .eor =>
    [(.immediate, 0x49), (.zeropage, 0x45), (.zeropageX, 0x55), (.absolute, 0x4D),
     (.absoluteX, 0x5D), (.absoluteY, 0x59), (.indirectX, 0x41), (.indirectY, 0x51)]
  | .bit => [(.zeropage, 0x24), (.absolute, 0x2C)]
  | .asl => [(.accumulator, 0x0A), (.zeropage, 0x06), (.zeropageX, 0x16), (.absolute, 0x0E), (.absoluteX, 0x1E)]
  | .lsr => [(.accumulator, 0x4A), (.zeropage, 0x46), (.zeropageX, 0x56), (.absolute, 0x4E), (.absoluteX, 0x5E)]
  | .rol => [(.accumulator, 0x2A), (.zeropage, 0x26), (.zeropageX, 0x36), (.absolute, 0x2E), (.absoluteX, 0x3E)]
  | .ror => [(.accumulator, 0x6A), (.zeropage, 0x66), (.zeropageX, 0x76), (.absolute, 0x6E), (.absoluteX, 0x7E)]
  | .cmp =>
    [(.immediate, 0xC9), (.zeropage, 0xC5), (.zeropageX, 0xD5), (.absolute, 0xCD),
     (.absoluteX, 0xDD), (.absoluteY, 0xD9), (.indirectX, 0xC1), (.indirectY, 0xD1)]
  | .cpx => [(.immediate, 0xE0), (.zeropage, 0xE4), (.absolute, 0xEC)]
  | .cpy => [(.immediate, 0xC0), (.zeropage, 0xC4), (.absolute, 0xCC)]
  | .inc => [(.zeropage, 0xE6), (.zeropageX, 0xF6), (.absolute, 0xEE), (.absoluteX, 0xFE)]
  | .dec => [(.zeropage, 0xC6), (.zeropageX, 0xD6), (.absolute, 0xCE), (.absoluteX, 0xDE)]
  | .inx => [(.implicit, 0xE8)]
  | .iny => [(.implicit, 0xC8)]
  | .dex => [(.implicit, 0xCA)]
  | .dey => [(.implicit, 0x88)]
  | .bcc => [(.relative, 0x90)]
  | .bcs => [(.relative, 0xB0)]
  | .beq => [(.relative, 0xF0)]
  | .bne => [(.relative, 0xD0)]
  | .bmi => [(.relative, 0x30)]
  | .bpl => [(.relative, 0x10)]
  | .bvc => [(.relative, 0x50)]
  | .bvs => [(.relative, 0x70)]
  | .jmp => [(.absolute, 0x4C), (.indirect, 0x6C)]
  | .pha => [(.implicit, 0x48)]
  | .pla => [(.implicit, 0x68)]
  | .php => [(.implicit, 0x08)]
  | .plp => [(.implicit, 0x28)]
  | .jsr => [(.absolute, 0x20)]
  | .rts => [(.implicit, 0x60)]
  | .brk => [(.implicit, 0x00)]
  | .rti => [(.implicit, 0x40)]
  | .sec => [(.implicit, 0x38)]
  | .clc => [(.implicit, 0x18)]
  | .sei => [(.implicit, 0x78)]
  | .cli => [(.implicit, 0x58)]
  | .sed => [(.implicit, 0xF8)]
  | .cld => [(.implicit, 0xD8)]
  | .clv => [(.implicit, 0xB8)]
  | .tax => [(.implicit, 0xAA)]
  | .tay => [(.implicit, 0xA8)]
  | .tsx => [(.implicit, 0xBA)]
  | .txa => [(.implicit, 0x8A)]
  | .txs => [(.implicit, 0x9A)]
  | .tya => [(.implicit, 0x98)]
  | .nop => [(.implicit, 0xEA)]
  | .kil => [(.implicit, 0x02)]
  | .undoc => []

/-- The operand bytes of an operand, in memory order (spec/30_encoding.md R110, R113). -/
def Operand.bytes : Operand → List Byte
  | .implied | .acc => []
  | .imm b | .zp b | .zpX b | .zpY b | .indX b | .indY b | .rel b => [b]
  | .abs w | .absX w | .absY w | .ind w => [loByte w, hiByte w]

/-- The opcode byte of a mnemonic in a mode, if the table has that row. -/
def Mnemonic.opcodeByte (m : Mnemonic) (mode : Mode) : Option Byte :=
  (m.encodings.find? (fun e => e.1 == mode)).map Prod.snd

/-- The bytes of a well-formed instruction; an ill-formed one has none. -/
def encode : Instr → List Byte
  | .undoc op => [op]
  | i =>
    match i.mnemonic.opcodeByte i.mode with
    | some op => op :: i.operand.bytes
    | none => []

/-- The three bytes of a table word: bit 0 is the least significant bit of the first byte, and the bits from `nbits` up
are 0. -/
def tableBytes (nbits w : Nat) : List Byte :=
  let v := w % 2 ^ nbits
  [BitVec.ofNat 8 v, BitVec.ofNat 8 (v / 256), BitVec.ofNat 8 (v / 65536)]

/-- What the decoder reads from an instruction word of spec/opcode_table.json. -/
def decodeTableWord (nbits w : Nat) : Option Instr :=
  match decode (tableBytes nbits w) with
  | .ok (i, _) => some i
  | .error _ => none

end Sys2Proof
end

