-- ==== Sys2Proof/Machine/Bits.lean ====
section
/-! DEFINITION. Bits: extension of a byte to a word (spec/00_scope.md R14). The byte order helpers `wordLE`, `loByte` and
`hiByte` stand in Decode.lean. -/

namespace Sys2Proof.Machine

/-- `zext_16` (R14). -/
def zext16 (b : Byte) : Word := b.setWidth 16

/-- `sext_16` (R14). -/
def sext16 (b : Byte) : Word := b.signExtend 16

end Sys2Proof.Machine
end

