-- ==== Sys2Proof/Config.lean ====
section
/-! DEFINITION. Config: the parameters of the spec that the source does not fix (spec/00_scope.md R10), fixed for a whole
run, and the free value of an overlay read. -/

namespace Sys2Proof

/-- An overlay as the core sees it: its inclusive address range (spec/20_memory.md R80). What it does with an access
belongs to the device (R82). -/
structure Overlay where
  start : Word
  last : Word
deriving DecidableEq, Repr

/-- The two kinds of an access (spec/20_memory.md R80). -/
inductive AccessKind where
  | read
  | write
deriving DecidableEq, Repr

/-- An overlay access as spec/20_memory.md R82 records it: the kind, the overlay (its place in the registration order), the
address and the byte read or written. -/
structure OverlayEvent where
  kind : AccessKind
  overlay : Nat
  address : Word
  value : Byte
deriving DecidableEq, Repr

/-- The platform's parameters, fixed for a run (spec/00_scope.md R10). -/
structure Config where
  /-- OVERLAYS, in registration order (spec/20_memory.md R80). -/
  overlays : List Overlay
  /-- UNDOC_MODE as pairs (byte, mode): the first pair of a byte counts, and a byte with no pair has the default,
  implicit (spec/40_dispatcher.md R147). -/
  undocModes : List (Byte × Mode)
deriving DecidableEq, Repr

/-- The defaults of spec/00_scope.md R10: no overlay, every undocumented byte implicit. -/
def Config.default : Config := { overlays := [], undocModes := [] }

/-- FREE VALUE (log 2): the byte an overlay read returns, the oracle `OverlayRead(o, a, history)` of
92_eei_decisions.md D19, under no law (spec/20_memory.md R82). The history is the list of the overlay accesses before it,
so no two reads of a run share their arguments. -/
opaque Config.overlayRead (overlay : Nat) (address : Word) (history : List OverlayEvent) : Byte

end Sys2Proof
end

