-- ==== Sys2Proof/Machine/State.lean ====
section
/-! DEFINITION. State: everything spec/ gives the machine, as plain data (INVENTORY.md, State), the reasons a step can
stop, and the state after power-on. -/

namespace Sys2Proof.Machine

/-- The seven flags (spec/10_state.md R40). -/
structure Flags where
  c : Bool
  z : Bool
  i : Bool
  d : Bool
  b : Bool
  v : Bool
  n : Bool
deriving DecidableEq, Repr

/-- Plain memory (spec/20_memory.md R72): the cells that hold a byte other than 0, by address. Its canonical form is
`Memory.wf` of Machine/Memory.lean. -/
abbrev Memory := List Host.Cell

/-- The machine: the processor state (spec/10_state.md R30), plain memory (R71), the platform's parameters, fixed for a run
(spec/00_scope.md R10), the record of overlay accesses (spec/20_memory.md R82) and the Halted bit (spec/10_state.md R49). -/
structure State where
  /-- PC, the program counter (R36). -/
  pc : Word
  /-- A, the accumulator (R32). -/
  a : Byte
  /-- X (R33). -/
  x : Byte
  /-- Y (R34). -/
  y : Byte
  /-- S, the stack pointer (R35). -/
  sp : Byte
  /-- C, Z, I, D, B, V and N (R40). -/
  flags : Flags
  /-- Plain memory (spec/20_memory.md R72). -/
  mem : Memory
  /-- OVERLAYS and UNDOC_MODE (spec/00_scope.md R10). No step changes them. -/
  config : Config
  /-- The overlay accesses so far, oldest first (spec/20_memory.md R82; log 2). -/
  events : List OverlayEvent
  /-- The Halted state (R49, spec/40_dispatcher.md R149). -/
  halted : Bool
deriving DecidableEq, Repr

/-- The reasons the machine stops with a fault. -/
inductive Fault where
  /-- Raised by `step` alone, when a cycle is issued against a halted state, which spec/40_dispatcher.md R149 forbids.
  Safe: the model stops where nothing is part of the hardware's behaviour (93_implementation_defined.md U7; log 5). -/
  | processorHalted
deriving DecidableEq, Repr

/-- The reasons an instruction has no meaning. -/
inductive Refusal where
  /-- Raised by an arm of `exec` whose instruction has no meaning yet. No arm of this model raises it. Safe. -/
  | notModelled (mnemonic : String)
deriving DecidableEq, Repr

/-- The state with a new PC. -/
def State.setPc (s : State) (v : Word) : State := { s with pc := v }
/-- The state with a new A. -/
def State.setA (s : State) (v : Byte) : State := { s with a := v }
/-- The state with a new X. -/
def State.setX (s : State) (v : Byte) : State := { s with x := v }
/-- The state with a new Y. -/
def State.setY (s : State) (v : Byte) : State := { s with y := v }
/-- The state with a new S. -/
def State.setSp (s : State) (v : Byte) : State := { s with sp := v }
/-- The state with new flags. -/
def State.setFlags (s : State) (f : Flags) : State := { s with flags := f }
/-- The state with a new plain memory. -/
def State.setMem (s : State) (m : Memory) : State := { s with mem := m }
/-- The state with one more overlay access recorded. -/
def State.logEvent (s : State) (e : OverlayEvent) : State := { s with events := s.events ++ [e] }
/-- The state with the Halted bit set. -/
def State.halt (s : State) : State := { s with halted := true }

/-- All flags cleared (spec/10_state.md R51). -/
def Flags.cleared : Flags :=
  { c := false, z := false, i := false, d := false, b := false, v := false, n := false }

/-- The power-on state (spec/10_state.md R51): PC is the sentinel 0, S is 0xFF, all flags are cleared, every memory cell
reads 0, nothing is halted. A, X and Y are the arguments INIT_A, INIT_X and INIT_Y (spec/00_scope.md R10), which the spec
leaves open. -/
def State.powerOn (initA initX initY : Byte) (config : Config) : State :=
  { pc := 0x0000, a := initA, x := initX, y := initY, sp := 0xFF, flags := Flags.cleared, mem := [],
    config := config, events := [], halted := false }

/-- The machine right after reset. DESIGN CHOICE (log 1): INIT_A, INIT_X and INIT_Y are 0x00; unsafe. The platform's
parameters are the defaults of spec/00_scope.md R10 (logs 3 and 4); the event record is empty, DESIGN CHOICE (log 2). -/
def State.reset : State := State.powerOn 0x00 0x00 0x00 Config.default

end Sys2Proof.Machine
end

