-- ==== Sys2Proof/Machine/Flags.lean ====
section
/-! DEFINITION. Flags: every result and flag computation of the instruction set, and the packed status register. -/

namespace Sys2Proof.Machine

/-- `setZN(v)`: Z is "v is 0", N is bit 7 of v; every other flag keeps its value (spec/00_scope.md R17). -/
def setZN (v : Byte) (f : Flags) : Flags := { f with z := v == 0, n := v.msb }

/-- The exact sum A + m + C, 0 to 511 (spec/43_arith_logic.md R210). -/
def adcSum (a m : Byte) (c : Bool) : Nat := a.toNat + m.toNat + c.toNat

/-- The result byte of ADC: the sum modulo 256 (R210). -/
def adcByte (a m : Byte) (c : Bool) : Byte := BitVec.ofNat 8 (adcSum a m c)

/-- The flags of ADC: C, V, Z and N, whatever D holds (R210, R212). -/
def adcFlags (a m : Byte) (f : Flags) : Flags :=
  let r := adcByte a m f.c
  setZN r { f with c := decide (adcSum a m f.c > 255), v := (a.msb == m.msb) && (a.msb != r.msb) }

/-- The flags of BIT: Z from A and m, N and V from m alone (R216). -/
def bitFlags (a m : Byte) (f : Flags) : Flags :=
  { f with z := (a &&& m) == 0, n := m.msb, v := m.getLsbD 6 }

/-- The flags of a compare of a register with m (spec/45_compare_incdec.md R260). -/
def compareFlags (r m : Byte) (f : Flags) : Flags :=
  { f with c := decide (m.toNat ≤ r.toNat), z := r == m, n := (r - m).msb }

/-- ASL's result (spec/44_shift_rotate.md R240). -/
def aslByte (v : Byte) : Byte := v <<< 1

/-- LSR's result (R241). -/
def lsrByte (v : Byte) : Byte := v >>> 1

/-- ROL's result: the old C enters bit 0 (R242). -/
def rolByte (v : Byte) (c : Bool) : Byte := (v <<< 1) ||| (BitVec.ofBool c).setWidth 8

/-- ROR's result: the old C enters bit 7 (R243). -/
def rorByte (v : Byte) (c : Bool) : Byte := (v >>> 1) ||| ((BitVec.ofBool c).setWidth 8 <<< 7)

/-- The flags of a shift or rotate: C is the bit shifted out, Z and N from the result (R240 to R243). -/
def shiftFlags (out : Bool) (r : Byte) (f : Flags) : Flags := setZN r { f with c := out }

/-- One bit of the status byte, at its place. -/
def statusBit (b : Bool) (place : Nat) : Byte := (BitVec.ofBool b).setWidth 8 <<< place

/-- `packP(b)`: the status byte N V 1 b D I Z C, from bit 7 down (spec/10_state.md R44; the layout and bit 5 are the spec's
decisions D5 and D6, log 7). -/
def packP (f : Flags) (b : Bool) : Byte :=
  statusBit f.n 7 ||| statusBit f.v 6 ||| statusBit true 5 ||| statusBit b 4 |||
  statusBit f.d 3 ||| statusBit f.i 2 ||| statusBit f.z 1 ||| statusBit f.c 0

/-- `unpackP(v)`: all seven flags from a pulled byte, bit 5 ignored (R45; D5, D6, log 7). -/
def unpackP (v : Byte) : Flags :=
  { n := v.getLsbD 7, v := v.getLsbD 6, b := v.getLsbD 4, d := v.getLsbD 3, i := v.getLsbD 2,
    z := v.getLsbD 1, c := v.getLsbD 0 }

end Sys2Proof.Machine
end

