-- ==== Sys2Proof/Machine/Memory.lean ====
section
/-! DEFINITION. Memory: plain memory as a list of (address, byte) pairs in one canonical form (spec/20_memory.md R72, R73). -/

namespace Sys2Proof.Machine

/-- What a cell nothing has written reads as (R73). -/
def Memory.unlisted : Byte := 0x00

/-- The byte at an address (R72, R73). -/
def Memory.read : Memory → Nat → Byte
  | [], _ => Memory.unlisted
  | (k, v) :: rest, addr => if addr < k then Memory.unlisted else if addr = k then v else Memory.read rest addr

/-- The memory with a byte written. Writing what an unlisted address reads as removes the entry, so that equal memories are
equal lists. -/
def Memory.write : Memory → Nat → Byte → Memory
  | [], addr, v => if v = Memory.unlisted then [] else [(addr, v)]
  | (k, w) :: rest, addr, v =>
    if addr < k then
      if v = Memory.unlisted then (k, w) :: rest else (addr, v) :: (k, w) :: rest
    else if addr = k then
      if v = Memory.unlisted then rest else (addr, v) :: rest
    else (k, w) :: Memory.write rest addr v

/-- The canonical form from a lower bound on: addresses strictly rising below 65536, no entry equal to `unlisted`. -/
def Memory.wfFrom (bound : Nat) : Memory → Bool
  | [] => true
  | (k, v) :: rest =>
    decide (bound ≤ k) && decide (k < 65536) && decide (v ≠ Memory.unlisted) && Memory.wfFrom (k + 1) rest

/-- The canonical form of memory. -/
def Memory.wf (m : Memory) : Bool := Memory.wfFrom 0 m

end Sys2Proof.Machine
end

