-- ==== Sys2Proof/Machine/Ops.lean ====
section
/-! DEFINITION. Ops: the named operations over memory, the stack and the control registers: overlay-resolved byte accesses,
word reads, push and pull, the interrupt entry and return, the reset load and the halt. An operation that reads answers
the value and the state after the read, because a read that an overlay takes is recorded (spec/20_memory.md R82). -/

namespace Sys2Proof.Machine

/-- The address of the reset vector (spec/20_memory.md R78). -/
def resetVector : Word := 0xFFFC

/-- The address of the IRQ vector, which BRK takes (R78). -/
def irqVector : Word := 0xFFFE

/-- The stack page (spec/10_state.md R35). -/
def stackPage : Word := 0x0100

/-- Whether an overlay's inclusive range holds the address (spec/20_memory.md R81). -/
def overlayContains (o : Overlay) (addr : Word) : Bool :=
  decide (o.start.toNat ≤ addr.toNat) && decide (addr.toNat ≤ o.last.toNat)

/-- `resolve(a)` of R81: the place of the first overlay, in registration order, whose range holds the address. -/
def overlayAt (overlays : List Overlay) (addr : Word) : Option Nat :=
  overlays.findIdx? (fun o => overlayContains o addr)

/-- `MemRead(addr, 1)` (spec/00_scope.md R16, spec/20_memory.md R81): an overlay answers with a free value and the access is
recorded; else the plain cell is read and nothing changes. -/
def busRead (addr : Word) (s : State) : Byte × State :=
  match overlayAt s.config.overlays addr with
  | some k =>
    let v := Config.overlayRead k addr s.events
    (v, s.logEvent { kind := .read, overlay := k, address := addr, value := v })
  | none => (s.mem.read addr.toNat, s)

/-- `MemWrite(addr, 1, v)` (R16, R76, R81): an overlay takes the byte and the plain cell keeps its value; else the plain cell
is written. -/
def busWrite (addr : Word) (v : Byte) (s : State) : State :=
  match overlayAt s.config.overlays addr with
  | some k => s.logEvent { kind := .write, overlay := k, address := addr, value := v }
  | none => s.setMem (s.mem.write addr.toNat v)

/-- `MemRead(addr, 2)`: the byte at addr, then the byte at addr + 1 modulo 65536, little-endian (R16, R75, R79, R83). -/
def busRead16 (addr : Word) (s : State) : Word × State :=
  let lo := busRead addr s
  let hi := busRead (addr + 1) lo.2
  (wordLE lo.1 hi.1, hi.2)

/-- Read the byte at PC and move PC past it (spec/40_dispatcher.md R142, spec/41_addressing.md R164). -/
def fetchByte (s : State) : Byte × State :=
  let r := busRead s.pc s
  (r.1, r.2.setPc (s.pc + 1))

/-- The stack address of a value of S: high byte 0x01 (spec/10_state.md R35). -/
def stackAddress (sp : Byte) : Word := stackPage ||| zext16 sp

/-- `push(v)`: write at the stack address of S, then decrement S modulo 256 (spec/47_stack.md R310; D7, log 7). -/
def push (v : Byte) (s : State) : State := (busWrite (stackAddress s.sp) v s).setSp (s.sp - 1)

/-- `pull()`: increment S modulo 256, then read at the stack address of S (R311; D7, log 7). -/
def pull (s : State) : Byte × State := busRead (stackAddress (s.sp + 1)) (s.setSp (s.sp + 1))

/-- `push16(w)`: the high byte, then the low byte (R312; D8, log 7). -/
def push16 (w : Word) (s : State) : State := push (loByte w) (push (hiByte w) s)

/-- `pull16()`: the low byte, then the high byte (R313; D8, log 7). -/
def pull16 (s : State) : Word × State :=
  let lo := pull s
  let hi := pull lo.2
  (wordLE lo.1 hi.1, hi.2)

/-- Write A and set Z and N from the byte written. -/
def loadA (v : Byte) (s : State) : State := (s.setA v).setFlags (setZN v s.flags)

/-- Write X and set Z and N from the byte written. -/
def loadX (v : Byte) (s : State) : State := (s.setX v).setFlags (setZN v s.flags)

/-- Write Y and set Z and N from the byte written. -/
def loadY (v : Byte) (s : State) : State := (s.setY v).setFlags (setZN v s.flags)

/-- Taking an interrupt (spec/60_exceptions.md R406, spec/48_subroutine_interrupt.md R332): push the return address, high
byte first, and the status byte with B and bit 5 set and I as it was; PC becomes the word at the IRQ vector; I becomes 1.
Nothing else changes, the stored B and D included. -/
def enterInterrupt (returnAddress : Word) (s : State) : State :=
  let pushed := push (packP s.flags true) (push16 returnAddress s)
  let vector := busRead16 irqVector pushed
  (vector.2.setPc vector.1).setFlags { s.flags with i := true }

/-- Returning from an interrupt (R407, spec/48_subroutine_interrupt.md R333): pull the status byte into all seven flags,
then pull PC, with no +1. -/
def returnFromInterrupt (s : State) : State :=
  let status := pull s
  let target := pull16 (status.2.setFlags (unpackP status.1))
  target.2.setPc target.1

/-- The reset load: PC becomes the word at the reset vector and nothing else changes (spec/40_dispatcher.md R141). -/
def resetLoad (s : State) : State :=
  let vector := busRead16 resetVector s
  vector.2.setPc vector.1

/-- Raising ProcessorHalted (R146): the halted state is the state at the start of the cycle, so PC, which is past the KIL
byte when a meaning runs, goes back to it. -/
def haltProcessor (s : State) : State := (s.setPc (s.pc - 1)).halt

end Sys2Proof.Machine
end

