-- ==== Sys2Proof/Machine/Operands.lean ====
section
/-! DEFINITION. Operands: the addressing-mode resolver (spec/41_addressing.md), in the two parts a cycle uses (fetching the
operand bytes, computing the effective address), the resolver as one function, and the operand accesses of R175. -/

namespace Sys2Proof.Machine

/-- Read `n` operand bytes at PC, moving PC past each (R160, spec/30_encoding.md R114). Bytes not read are 0. -/
def fetchOperandBytes (n : Nat) (s : State) : (Byte × Byte) × State :=
  match n with
  | 0 => ((0, 0), s)
  | 1 =>
    let b1 := fetchByte s
    ((b1.1, 0), b1.2)
  | _ =>
    let b1 := fetchByte s
    let b2 := fetchByte b1.2
    ((b1.1, b2.1), b2.2)

/-- The operand of a mode, its bytes read at PC. An immediate's data byte is read here, once (R163; log 9). -/
def fetchOperand (mode : Mode) (s : State) : Operand × State :=
  let r := fetchOperandBytes mode.operandLength s
  (Operand.ofBytes mode r.1.1 r.1.2, r.2)

/-- The effective address of an operand and the state after the pointer reads it takes, with PC past the whole instruction
(R161 to R173). Indexed zero-page addresses wrap in the zero page; every other sum wraps modulo 65536 (R174; D9 to D11,
log 7). -/
def effAddr (o : Operand) (s : State) : Option Word × State :=
  match o with
  | .implied | .acc => (none, s)
  | .imm _ => (some (s.pc - 1), s)
  | .zp b => (some (zext16 b), s)
  | .zpX b => (some (zext16 (b + s.x)), s)
  | .zpY b => (some (zext16 (b + s.y)), s)
  | .abs w => (some w, s)
  | .absX w => (some (w + zext16 s.x), s)
  | .absY w => (some (w + zext16 s.y), s)
  | .ind p =>
    let t := busRead16 p s
    (some t.1, t.2)
  | .indX b =>
    let t := busRead16 (zext16 (b + s.x)) s
    (some t.1, t.2)
  | .indY b =>
    let t := busRead16 (zext16 b) s
    (some (t.1 + zext16 s.y), t.2)
  | .rel o => (some (s.pc + sext16 o), s)

/-- The resolver as R160 gives it: from the state with PC at the operand bytes, the effective address and the state with PC
past them. It does not read an immediate's data byte (R163). -/
def resolve (mode : Mode) (s : State) : Option Word × State :=
  match mode with
  | .implicit | .accumulator => (none, s)
  | .immediate => (some s.pc, s.setPc (s.pc + 1))
  | mode =>
    let r := fetchOperand mode s
    effAddr r.1 r.2

/-- `load()`: the byte at the effective address, or A when there is none (spec/44_shift_rotate.md). -/
def loadEa (ea : Option Word) (s : State) : Byte × State :=
  match ea with
  | some addr => busRead addr s
  | none => (s.a, s)

/-- `store(r)`: write the byte at the effective address, or A when there is none (spec/44_shift_rotate.md). -/
def storeEa (ea : Option Word) (r : Byte) (s : State) : State :=
  match ea with
  | some addr => busWrite addr r s
  | none => s.setA r

/-- The byte an instruction reads through its operand: an immediate's data byte, already read (log 9), or one read at the
effective address (R175, use "read"). -/
def loadOperand (o : Operand) (s : State) : Byte × State :=
  match o with
  | .imm v => (v, s)
  | o =>
    let e := effAddr o s
    loadEa e.1 e.2

/-- Write a byte through the operand, with no read of the effective address (R175, use "write"). -/
def storeOperand (o : Operand) (v : Byte) (s : State) : State :=
  let e := effAddr o s
  storeEa e.1 v e.2

/-- One read, then one write of the same place (R175, use "read-modify-write"): `result` gives the byte written, `flags` the
flags, each from the byte read. -/
def modifyOperand (o : Operand) (result : Byte → Byte) (flags : Byte → Flags → Flags) (s : State) : State :=
  let e := effAddr o s
  let v := loadEa e.1 e.2
  let t := storeEa e.1 (result v.1) v.2
  t.setFlags (flags v.1 t.flags)

/-- Make the effective address the new PC (R175, use "target"). -/
def jumpTo (o : Operand) (s : State) : State :=
  let e := effAddr o s
  match e.1 with
  | some target => e.2.setPc target
  | none => e.2

/-- A conditional branch (spec/46_branch_jump.md R290): taken, PC becomes the target; else PC stays past the branch. -/
def branchIf (cond : Bool) (off : Byte) (s : State) : State := if cond then jumpTo (.rel off) s else s

/-- UNDOC_MODE of a byte, default implicit (spec/40_dispatcher.md R147; log 4). -/
def undocMode (modes : List (Byte × Mode)) (op : Byte) : Mode :=
  match modes.find? (fun e => e.1 == op) with
  | some e => e.2
  | none => .implicit

end Sys2Proof.Machine
end

