-- ==== Sys2Proof/Machine/ArithLogic.lean ====
section
/-! DEFINITION. ArithLogic: ADC, SBC, AND, ORA, EOR, BIT (spec/43_arith_logic.md). -/

namespace Sys2Proof.Machine

/-- A + m + C into A, with the flags of ADC (R210); binary whatever D holds (R212). -/
def addToA (m : Byte) (s : State) : State :=
  (s.setA (adcByte s.a m s.flags.c)).setFlags (adcFlags s.a m s.flags)

/-- ADC (R210). -/
def execAdc (o : Operand) (s : State) : Host.Outcome State Fault Refusal :=
  let m := loadOperand o s
  .next (addToA m.1 m.2)

/-- SBC: ADC with the operand complemented (R211). -/
def execSbc (o : Operand) (s : State) : Host.Outcome State Fault Refusal :=
  let m := loadOperand o s
  .next (addToA (~~~m.1) m.2)

/-- AND (R213). -/
def execAnd (o : Operand) (s : State) : Host.Outcome State Fault Refusal :=
  let m := loadOperand o s
  .next (loadA (s.a &&& m.1) m.2)

/-- ORA (R214). -/
def execOra (o : Operand) (s : State) : Host.Outcome State Fault Refusal :=
  let m := loadOperand o s
  .next (loadA (s.a ||| m.1) m.2)

/-- EOR (R215). -/
def execEor (o : Operand) (s : State) : Host.Outcome State Fault Refusal :=
  let m := loadOperand o s
  .next (loadA (s.a ^^^ m.1) m.2)

/-- BIT (R216). -/
def execBit (o : Operand) (s : State) : Host.Outcome State Fault Refusal :=
  let m := loadOperand o s
  .next (m.2.setFlags (bitFlags s.a m.1 s.flags))

end Sys2Proof.Machine
end

