-- ==== Sys2Proof/Machine/BranchJump.lean ====
section
/-! DEFINITION. BranchJump: the eight branches and JMP (spec/46_branch_jump.md). The flag and the value each branch tests are
the spec's decision D18 (log 7). -/

namespace Sys2Proof.Machine

/-- BCC: branch if C = 0 (R291). -/
def execBcc (off : Byte) (s : State) : Host.Outcome State Fault Refusal := .next (branchIf (!s.flags.c) off s)

/-- BCS: branch if C = 1 (R292). -/
def execBcs (off : Byte) (s : State) : Host.Outcome State Fault Refusal := .next (branchIf s.flags.c off s)

/-- BEQ: branch if Z = 1 (R293). -/
def execBeq (off : Byte) (s : State) : Host.Outcome State Fault Refusal := .next (branchIf s.flags.z off s)

/-- BNE: branch if Z = 0 (R294). -/
def execBne (off : Byte) (s : State) : Host.Outcome State Fault Refusal := .next (branchIf (!s.flags.z) off s)

/-- BMI: branch if N = 1 (R295). -/
def execBmi (off : Byte) (s : State) : Host.Outcome State Fault Refusal := .next (branchIf s.flags.n off s)

/-- BPL: branch if N = 0 (R296). -/
def execBpl (off : Byte) (s : State) : Host.Outcome State Fault Refusal := .next (branchIf (!s.flags.n) off s)

/-- BVC: branch if V = 0 (R297). -/
def execBvc (off : Byte) (s : State) : Host.Outcome State Fault Refusal := .next (branchIf (!s.flags.v) off s)

/-- BVS: branch if V = 1 (R298). -/
def execBvs (off : Byte) (s : State) : Host.Outcome State Fault Refusal := .next (branchIf s.flags.v off s)

/-- JMP, absolute or indirect (R299). -/
def execJmp (o : Operand) (s : State) : Host.Outcome State Fault Refusal := .next (jumpTo o s)

end Sys2Proof.Machine
end

