-- ==== Sys2Proof/Machine/CompareIncDec.lean ====
section
/-! DEFINITION. CompareIncDec: CMP, CPX, CPY, INC, DEC, INX, INY, DEX, DEY (spec/45_compare_incdec.md). -/

namespace Sys2Proof.Machine

/-- CMP (R260, R261). -/
def execCmp (o : Operand) (s : State) : Host.Outcome State Fault Refusal :=
  let m := loadOperand o s
  .next (m.2.setFlags (compareFlags s.a m.1 s.flags))

/-- CPX (R260, R262). -/
def execCpx (o : Operand) (s : State) : Host.Outcome State Fault Refusal :=
  let m := loadOperand o s
  .next (m.2.setFlags (compareFlags s.x m.1 s.flags))

/-- CPY (R260, R263). -/
def execCpy (o : Operand) (s : State) : Host.Outcome State Fault Refusal :=
  let m := loadOperand o s
  .next (m.2.setFlags (compareFlags s.y m.1 s.flags))

/-- INC (R264). -/
def execInc (o : Operand) (s : State) : Host.Outcome State Fault Refusal :=
  .next (modifyOperand o (fun v => v + 1) (fun v => setZN (v + 1)) s)

/-- DEC (R265). -/
def execDec (o : Operand) (s : State) : Host.Outcome State Fault Refusal :=
  .next (modifyOperand o (fun v => v - 1) (fun v => setZN (v - 1)) s)

/-- INX (R266). -/
def execInx (s : State) : Host.Outcome State Fault Refusal := .next (loadX (s.x + 1) s)

/-- INY (R267). -/
def execIny (s : State) : Host.Outcome State Fault Refusal := .next (loadY (s.y + 1) s)

/-- DEX (R268). -/
def execDex (s : State) : Host.Outcome State Fault Refusal := .next (loadX (s.x - 1) s)

/-- DEY (R269). -/
def execDey (s : State) : Host.Outcome State Fault Refusal := .next (loadY (s.y - 1) s)

end Sys2Proof.Machine
end

