-- ==== Sys2Proof/Machine/FlagsTransfer.lean ====
section
/-! DEFINITION. FlagsTransfer: the flag, transfer and no-op instructions (spec/49_flags_transfer_nop.md). -/

namespace Sys2Proof.Machine

/-- SEC (R350). -/
def execSec (s : State) : Host.Outcome State Fault Refusal := .next (s.setFlags { s.flags with c := true })

/-- CLC (R351). -/
def execClc (s : State) : Host.Outcome State Fault Refusal := .next (s.setFlags { s.flags with c := false })

/-- SEI (R352). -/
def execSei (s : State) : Host.Outcome State Fault Refusal := .next (s.setFlags { s.flags with i := true })

/-- CLI (R353). -/
def execCli (s : State) : Host.Outcome State Fault Refusal := .next (s.setFlags { s.flags with i := false })

/-- SED (R354). -/
def execSed (s : State) : Host.Outcome State Fault Refusal := .next (s.setFlags { s.flags with d := true })

/-- CLD (R355). -/
def execCld (s : State) : Host.Outcome State Fault Refusal := .next (s.setFlags { s.flags with d := false })

/-- CLV (R356). -/
def execClv (s : State) : Host.Outcome State Fault Refusal := .next (s.setFlags { s.flags with v := false })

/-- TAX (R357). -/
def execTax (s : State) : Host.Outcome State Fault Refusal := .next (loadX s.a s)

/-- TAY (R358). -/
def execTay (s : State) : Host.Outcome State Fault Refusal := .next (loadY s.a s)

/-- TSX (R359). -/
def execTsx (s : State) : Host.Outcome State Fault Refusal := .next (loadX s.sp s)

/-- TXA (R360). -/
def execTxa (s : State) : Host.Outcome State Fault Refusal := .next (loadA s.x s)

/-- TXS: no flag changes (R361). -/
def execTxs (s : State) : Host.Outcome State Fault Refusal := .next (s.setSp s.x)

/-- TYA (R362). -/
def execTya (s : State) : Host.Outcome State Fault Refusal := .next (loadA s.y s)

/-- NOP (R363). -/
def execNop (s : State) : Host.Outcome State Fault Refusal := .next s

end Sys2Proof.Machine
end

