-- ==== Sys2Proof/Machine/KilUndoc.lean ====
section
/-! DEFINITION. KilUndoc: KIL and the undocumented bytes (spec/40_dispatcher.md R146, R147). -/

namespace Sys2Proof.Machine

/-- KIL: the halted state is the state at the start of the cycle, PC at the KIL byte (R146; log 5). -/
def execKil (s : State) : Host.Outcome State Fault Refusal := .next (haltProcessor s)

/-- An undocumented byte: the resolver runs for UNDOC_MODE(op), with its reads and its PC advance, and nothing else happens
(R147; log 4). -/
def execUndoc (op : Byte) (s : State) : Host.Outcome State Fault Refusal :=
  .next (resolve (undocMode s.config.undocModes op) s).2

end Sys2Proof.Machine
end

