-- ==== Sys2Proof/Machine/LoadStore.lean ====
section
/-! DEFINITION. LoadStore: LDA, LDX, LDY, STA, STX, STY (spec/42_load_store.md). -/

namespace Sys2Proof.Machine

/-- LDA (R190). -/
def execLda (o : Operand) (s : State) : Host.Outcome State Fault Refusal :=
  let m := loadOperand o s
  .next (loadA m.1 m.2)

/-- LDX (R191). -/
def execLdx (o : Operand) (s : State) : Host.Outcome State Fault Refusal :=
  let m := loadOperand o s
  .next (loadX m.1 m.2)

/-- LDY (R192). -/
def execLdy (o : Operand) (s : State) : Host.Outcome State Fault Refusal :=
  let m := loadOperand o s
  .next (loadY m.1 m.2)

/-- STA (R193). -/
def execSta (o : Operand) (s : State) : Host.Outcome State Fault Refusal := .next (storeOperand o s.a s)

/-- STX (R194). -/
def execStx (o : Operand) (s : State) : Host.Outcome State Fault Refusal := .next (storeOperand o s.x s)

/-- STY (R195). -/
def execSty (o : Operand) (s : State) : Host.Outcome State Fault Refusal := .next (storeOperand o s.y s)

end Sys2Proof.Machine
end

