-- ==== Sys2Proof/Machine/ShiftRotate.lean ====
section
/-! DEFINITION. ShiftRotate: ASL, LSR, ROL, ROR, each on A or on memory (spec/44_shift_rotate.md). The rotates feed in C as
it was at the start of the instruction. -/

namespace Sys2Proof.Machine

/-- ASL (R240). -/
def execAsl (o : Operand) (s : State) : Host.Outcome State Fault Refusal :=
  .next (modifyOperand o aslByte (fun v => shiftFlags v.msb (aslByte v)) s)

/-- LSR (R241). -/
def execLsr (o : Operand) (s : State) : Host.Outcome State Fault Refusal :=
  .next (modifyOperand o lsrByte (fun v => shiftFlags (v.getLsbD 0) (lsrByte v)) s)

/-- ROL (R242). -/
def execRol (o : Operand) (s : State) : Host.Outcome State Fault Refusal :=
  let c := s.flags.c
  .next (modifyOperand o (fun v => rolByte v c) (fun v => shiftFlags v.msb (rolByte v c)) s)

/-- ROR (R243). -/
def execRor (o : Operand) (s : State) : Host.Outcome State Fault Refusal :=
  let c := s.flags.c
  .next (modifyOperand o (fun v => rorByte v c) (fun v => shiftFlags (v.getLsbD 0) (rorByte v c)) s)

end Sys2Proof.Machine
end

