-- ==== Sys2Proof/Machine/Stack.lean ====
section
/-! DEFINITION. Stack: PHA, PLA, PHP, PLP (spec/47_stack.md). -/

namespace Sys2Proof.Machine

/-- PHA (R315). -/
def execPha (s : State) : Host.Outcome State Fault Refusal := .next (push s.a s)

/-- PLA (R316). -/
def execPla (s : State) : Host.Outcome State Fault Refusal :=
  let v := pull s
  .next (loadA v.1 v.2)

/-- PHP: B and bit 5 are pushed as 1; the stored B is not changed (R317, spec/10_state.md R43). -/
def execPhp (s : State) : Host.Outcome State Fault Refusal := .next (push (packP s.flags true) s)

/-- PLP: all seven flags from the pulled byte (R318). -/
def execPlp (s : State) : Host.Outcome State Fault Refusal :=
  let v := pull s
  .next (v.2.setFlags (unpackP v.1))

end Sys2Proof.Machine
end

