-- ==== Sys2Proof/Machine/Subroutine.lean ====
section
/-! DEFINITION. Subroutine: JSR, RTS, BRK, RTI (spec/48_subroutine_interrupt.md). PC is past the whole instruction. -/

namespace Sys2Proof.Machine

/-- JSR: push PC - 1, the address of the JSR's last byte, and jump (R330). -/
def execJsr (target : Word) (s : State) : Host.Outcome State Fault Refusal :=
  .next (jumpTo (.abs target) (push16 (s.pc - 1) s))

/-- RTS: PC is the pulled word plus 1 (R331). -/
def execRts (s : State) : Host.Outcome State Fault Refusal :=
  let w := pull16 s
  .next (w.2.setPc (w.1 + 1))

/-- BRK: the interrupt entry with the return address PC + 1, the BRK's address + 2 (R332). -/
def execBrk (s : State) : Host.Outcome State Fault Refusal := .next (enterInterrupt (s.pc + 1) s)

/-- RTI: the interrupt return (R333). -/
def execRti (s : State) : Host.Outcome State Fault Refusal := .next (returnFromInterrupt s)

end Sys2Proof.Machine
end

