-- ==== Sys2Proof/Machine/Fetch.lean ====
section
/-! DEFINITION. Fetch: fetching and decoding one instruction (spec/40_dispatcher.md R142 to R144), and placing an
instruction where it is fetched. -/

namespace Sys2Proof.Machine

/-- The opcode byte, then the operand bytes of its mode, each read at PC, which moves past it; the instruction they make
(R142, R143). -/
def fetchInstr (s : State) : Instr × State :=
  let op := fetchByte s
  let row := opcode op.1
  let operand := fetchOperandBytes row.2.operandLength op.2
  (assemble row op.1 operand.1.1 operand.1.2, operand.2)

/-- Bytes written to plain memory at consecutive addresses modulo 65536. -/
def placeBytes : List Byte → Word → Memory → Memory
  | [], _, m => m
  | b :: rest, addr, m => placeBytes rest (addr + 1) (m.write addr.toNat b)

/-- Where an instruction is placed when PC is the sentinel 0, which fetches nothing (log 6). -/
def placeAddress (pc : Word) : Word := if pc = 0 then 0x0200 else pc

/-- The overlays that hold none of the three cells from an address on. -/
def overlaysOff (overlays : List Overlay) (addr : Word) : List Overlay :=
  overlays.filter fun o =>
    !(overlayContains o addr || overlayContains o (addr + 1) || overlayContains o (addr + 2))

end Sys2Proof.Machine
end

