-- ==== Sys2Proof/Machine/Step.lean ====
section
/-! DEFINITION. Step: one cycle of the dispatcher (spec/40_dispatcher.md R148), and an instruction placed for the next
fetch. -/

namespace Sys2Proof.Machine

/-- One call of runCycle (R140, R148), its paths tested in the order of spec/60_exceptions.md R405: no cycle against a halted
state; a reset load when PC = 0; else one whole instruction. -/
def step (s : State) : Host.Outcome State Fault Refusal :=
  if s.halted then .fault .processorHalted
  else if s.pc = 0 then .next (resetLoad s)
  else
    let f := fetchInstr s
    exec f.1 f.2

/-- The state with an instruction word of the opcode table stored where `step` fetches its next instruction (log 6): at PC,
or at 0x0200 with PC moved there when PC is the sentinel 0; not halted; overlays over those three cells taken away. -/
def State.withFetchWord (s : State) (nbits w : Nat) : State :=
  let addr := placeAddress s.pc
  { s with
    pc := addr
    halted := false
    config := { s.config with overlays := overlaysOff s.config.overlays addr }
    mem := placeBytes (tableBytes nbits w) addr s.mem }

end Sys2Proof.Machine
end

