-- ==== Sys2Proof/Machine/Platform.lean ====
section
/-! DEFINITION. Platform: what the host does to the machine before the first cycle, and what it may read
(spec/20_memory.md R75 to R80, spec/70_reset_and_hazards.md R433, R435). No instruction uses these operations. -/

namespace Sys2Proof.Machine

/-- `readBytes(addr, count)`: ascending addresses modulo 65536, each byte resolved on its own (R75). -/
def readBytes (addr : Word) : Nat → State → List Byte × State
  | 0, s => ([], s)
  | count + 1, s =>
    let b := busRead addr s
    let rest := readBytes (addr + 1) count b.2
    (b.1 :: rest.1, rest.2)

/-- `writeByte(addr, value)` (R76). -/
def writeByte (addr : Word) (v : Byte) (s : State) : State := busWrite addr v s

/-- `writeBytes(addr, bytes)`: byte i at addr + i modulo 65536, each resolved on its own (R77). -/
def writeBytes (addr : Word) : List Byte → State → State
  | [], s => s
  | b :: rest, s => writeBytes (addr + 1) rest (writeByte addr b s)

/-- A little-endian word at a vector slot (R78). -/
def writeVector (slot w : Word) (s : State) : State := writeBytes slot [loByte w, hiByte w] s

/-- `setResetVector(word)` (R78). -/
def setResetVector (w : Word) (s : State) : State := writeVector resetVector w s

/-- `setIrqVector(word)` (R78). -/
def setIrqVector (w : Word) (s : State) : State := writeVector irqVector w s

/-- `getResetVector()` (R78). -/
def getResetVector (s : State) : Word × State := busRead16 resetVector s

/-- `getIrqVector()` (R78). -/
def getIrqVector (s : State) : Word × State := busRead16 irqVector s

/-- `registerOverlay(overlay)`: appends, with no check (R80). -/
def registerOverlay (o : Overlay) (s : State) : State :=
  { s with config := { s.config with overlays := s.config.overlays ++ [o] } }

/-- What the host loads before the first cycle: pieces of program and data, each at an address. -/
abbrev Image := List (Word × List Byte)

/-- Write every piece of an image, in order. -/
def loadImage : Image → State → State
  | [], s => s
  | (addr, bytes) :: rest, s => loadImage rest (writeBytes addr bytes s)

/-- Register overlays in order. -/
def registerOverlays : List Overlay → State → State
  | [], s => s
  | o :: rest, s => registerOverlays rest (registerOverlay o s)

/-- The host's boot (spec/70_reset_and_hazards.md R433, in its order, D24): create memory, load, write the vectors, register
the overlays; the processor state is the power-on state with the given INIT_A, INIT_X and INIT_Y. The first cycle is then
the reset load. -/
def boot (initA initX initY : Byte) (image : Image) (reset irq : Word) (overlays : List Overlay)
    (undocModes : List (Byte × Mode)) : State :=
  registerOverlays overlays
    (setIrqVector irq
      (setResetVector reset
        (loadImage image (State.powerOn initA initX initY { overlays := [], undocModes := undocModes }))))

end Sys2Proof.Machine
end

