-- ==== Sys2Proof/Safety.lean ====
section
/-! DEFINITION. Safety: the terms claims are stated in: outcomes, runs, plain cells, what reads the same, what a store leaves
behind, and the invariant of the machine. -/

namespace Sys2Proof.Machine

/-- The next state of an outcome, if it is one. -/
def nextOf (o : Host.Outcome State Fault Refusal) : Option State :=
  match o with
  | .next t => some t
  | .fault _ => none
  | .refused _ => none

/-- Meanings run one after the other, stopping at the first fault or refusal. -/
def execAll : List Instr → State → Host.Outcome State Fault Refusal
  | [], s => .next s
  | i :: rest, s =>
    match exec i s with
    | .next t => execAll rest t
    | .fault r => .fault r
    | .refused r => .refused r

/-- One state follows from another by some number of steps. -/
def Reaches (s t : State) : Prop := ∃ k, Host.Core.run Sys2Proof.core k s = .next t

/-- A cell that no overlay covers (spec/20_memory.md R81). -/
def State.plainAt (s : State) (addr : Word) : Prop := overlayAt s.config.overlays addr = none

/-- Every cell but one reads as before. -/
def State.readsSameBut (s t : State) (addr : Nat) : Prop := ∀ b, b ≠ addr → t.mem.read b = s.mem.read b

/-- The word of two bytes, as a number: the low byte and 256 times the high byte (spec/00_scope.md R13). -/
def wordOf (lo hi : Byte) : Word := BitVec.ofNat 16 (lo.toNat + 256 * hi.toNat)

/-- The stack cell of a value of S: 0x0100 to 0x01FF (spec/10_state.md R35). -/
def stackCell (sp : Byte) : Word := BitVec.ofNat 16 (256 + sp.toNat)

/-- Z and N of a result byte, every other flag as it was (spec/00_scope.md R17). -/
def Flags.zn (f : Flags) (v : Byte) : Flags := { f with z := decide (v.toNat = 0), n := decide (128 ≤ v.toNat) }

/-- `t` is `s` after one byte access that writes `v` at `addr`, the record before it being `seen`: every other cell reads as
before; at a plain cell the byte is there and no access is recorded; under an overlay plain memory is as it was and the
write is recorded (spec/20_memory.md R81, R82). -/
def State.storesAt (s t : State) (addr : Word) (v : Byte) (seen : List OverlayEvent) : Prop :=
  s.readsSameBut t addr.toNat ∧
  (s.plainAt addr → t.mem.read addr.toNat = v ∧ t.events = seen) ∧
  ∀ k, overlayAt s.config.overlays addr = some k →
    t.mem = s.mem ∧ t.events = seen ++ [{ kind := .write, overlay := k, address := addr, value := v }]

/-- `t` is `s` with the bytes written one after the other from the stack cell of `sp` downwards, S wrapping modulo 256
(spec/47_stack.md R310, R312); only plain memory and the event record differ. -/
def State.pushesBytes (s : State) (sp : Byte) (bytes : List Byte) (t : State) : Prop :=
  match bytes with
  | [] => t = s
  | v :: rest =>
    ∃ u, u = { s with mem := u.mem, events := u.events } ∧ s.storesAt u (stackCell sp) v s.events ∧
      u.pushesBytes (sp - 1) rest t

/-- Every recorded access names the overlay its address resolves to (spec/20_memory.md R81, R82). -/
def State.eventsResolved (s : State) : Prop :=
  ∀ e ∈ s.events, overlayAt s.config.overlays e.address = some e.overlay

/-- The invariant of the machine: plain memory is in its canonical form, and every recorded access is one an overlay took. -/
def State.inv (s : State) : Prop := s.mem.wf = true ∧ s.eventsResolved

/-- A shift or rotate on A and on memory: `result` of the byte read and the old C is written back, C becomes `out` of the byte
read, Z and N follow the result, and nothing else changes but the byte stored to and the record of accesses
(spec/44_shift_rotate.md). -/
def ShiftsOperand (instr : Operand → Instr) (result : Byte → Bool → Byte) (out : Byte → Bool) : Prop :=
  (∀ s, exec (instr .acc) s =
    .next { s with
      a := result s.a s.flags.c
      flags := { s.flags with c := out s.a }.zn (result s.a s.flags.c) }) ∧
  ∀ o s ea, s.mem.wf = true → (effAddr o s).1 = some ea →
    let m := busRead ea (effAddr o s).2
    let r := result m.1 s.flags.c
    ∃ t, exec (instr o) s = .next t ∧
      t = { s with flags := { s.flags with c := out m.1 }.zn r, mem := t.mem, events := t.events } ∧
      s.storesAt t ea r m.2.events

/-- A branch: taken when `cond` holds, PC becomes PC plus the signed offset modulo 65536; else PC stays past the branch;
nothing else changes (spec/46_branch_jump.md R290). Its bytes are the opcode and the offset. -/
def BranchesWhen (instr : Byte → Instr) (op : Byte) (cond : Flags → Bool) : Prop :=
  (∀ off s, exec (instr off) s =
    .next { s with pc := if cond s.flags then BitVec.ofInt 16 (s.pc.toNat + off.toInt) else s.pc }) ∧
  ∀ off, encode (instr off) = [op, off]

end Sys2Proof.Machine
end

