-- ==== Sys2Proof/Certificates/Slice0/Obligations.lean ====
section
/-! DEFINITION. The statements for the provers, from the numbered rules of spec/. Where one rests on a decision of the
spec (D<n> of 92_eei_decisions.md) or on a choice of the model (log <n>), its docstring says so. -/

open Sys2Proof Sys2Proof.Machine

/-! ### Encoding -/

/-- Words written out from the encodings of spec/30_encoding.md R116 (byte values: the spec's decision D2) decode to
the instructions they stand for, one of each family. That UNDOC takes one byte is log 4. -/
def Obligations.TableWordsDecode : Prop :=
  decode [0xA9, 0x01] = .ok (.lda (.imm 0x01), []) ∧
  decode [0x99, 0x34, 0x12] = .ok (.sta (.absY 0x1234), []) ∧
  decode [0x71, 0x20] = .ok (.adc (.indY 0x20), []) ∧
  decode [0x6A] = .ok (.ror .acc, []) ∧
  decode [0xDE, 0x00, 0x20] = .ok (.dec (.absX 0x2000), []) ∧
  decode [0xD0, 0xF9] = .ok (.bne 0xF9, []) ∧
  decode [0x6C, 0xFF, 0x10] = .ok (.jmp (.ind 0x10FF), []) ∧
  decode [0x08] = .ok (.php, []) ∧
  decode [0x20, 0x10, 0x02] = .ok (.jsr 0x0210, []) ∧
  decode [0xBA] = .ok (.tsx, []) ∧
  decode [0x02] = .ok (.kil, []) ∧
  decode [0xFF] = .ok (.undoc 0xFF, [])

/-- Decoding the encoding of any well-formed instruction, whatever bytes follow, gives the instruction and those
bytes. That UNDOC is encoded as its one byte is log 4. -/
def Obligations.DecodeOfEncodeIsInstruction : Prop :=
  ∀ (i : Instr) (rest : List Byte), i.wellFormed = true → decode (encode i ++ rest) = .ok (i, rest)

/-- Each word has one meaning: what decodes is well formed and encodes back to the bytes read. That UNDOC takes one
byte is log 4. -/
def Obligations.EncodeOfDecodeIsBytes : Prop :=
  ∀ (bytes : List Byte) (i : Instr) (rest : List Byte),
    decode bytes = .ok (i, rest) → i.wellFormed = true ∧ encode i ++ rest = bytes

/-- Decoding is total (spec/30_encoding.md R115): every opcode byte decodes to exactly one of a documented pair of
mnemonic and mode, KIL (0x02), or the undocumented fallback. -/
def Obligations.EveryOpcodeByteDecodes : Prop :=
  ∀ (op b1 b2 : Byte) (rest : List Byte), ∃ i r, decode (op :: b1 :: b2 :: rest) = .ok (i, r) ∧
    (i.mnemonic = .kil ↔ op = 0x02) ∧
    (i.mnemonic = .undoc ↔ op ∈ undocumentedBytes) ∧
    (i.mnemonic ≠ .kil → i.mnemonic ≠ .undoc → (i.mode, op) ∈ i.mnemonic.encodings)

/-- The length of an instruction is decided by its opcode byte alone, is 1, 2 or 3, and is what the decoder takes
(spec/30_encoding.md R110, R120). An undocumented byte has length 1 here whatever its UNDOC_MODE, the choice of log 4
(D4): R118 gives it 1 only by default, and the operand bytes of its mode are taken by its meaning
(UndocumentedByteIsNoOp). -/
def Obligations.OpcodeByteDecidesLength : Prop :=
  ∀ (op : Byte) (rest rest' r r' : List Byte) (i i' : Instr),
    decode (op :: rest) = .ok (i, r) → decode (op :: rest') = .ok (i', r') →
      i.length = i'.length ∧ (i.length = 1 ∨ i.length = 2 ∨ i.length = 3) ∧ rest.length + 1 = i.length + r.length ∧
      (i.mnemonic = .undoc → i.length = 1)

/-! ### Memory and overlays -/

/-- In a canonical memory a read of a cell gives the last byte written to it, and a write leaves every other cell
alone (spec/20_memory.md R88); a cell of the empty memory reads 0 (R73). -/
def Obligations.ReadGivesLastWrite : Prop :=
  (∀ (m : Memory) (addr b : Nat) (v : Byte), m.wf = true →
    (m.write addr v).read b = if b = addr then v else m.read b) ∧
  ∀ b, Memory.read [] b = 0x00

/-- Plain memory is the total function it reads as (spec/20_memory.md R72): canonical memories that read the same at
every address are equal. -/
def Obligations.CanonicalMemoriesReadingSameAreEqual : Prop :=
  ∀ m m' : Memory, m.wf = true → m'.wf = true → (∀ b, b < 65536 → m.read b = m'.read b) → m = m'

/-- Overlay resolution of one byte access (spec/20_memory.md R81): the first overlay in registration order whose
inclusive range holds the address takes the access, which is recorded and leaves the plain cell alone (the byte a read
returns is the free value of log 2); if none does, the plain cell is read or written. -/
def Obligations.FirstCoveringOverlayTakesAccess : Prop :=
  ∀ (s : State) (addr : Word) (v : Byte),
    (∀ (k : Nat) (o : Overlay), s.config.overlays[k]? = some o →
      o.start.toNat ≤ addr.toNat → addr.toNat ≤ o.last.toNat →
      (∀ (j : Nat) (o' : Overlay), j < k → s.config.overlays[j]? = some o' →
        ¬ (o'.start.toNat ≤ addr.toNat ∧ addr.toNat ≤ o'.last.toNat)) →
      (∃ b, busRead addr s = (b, { s with events := s.events ++ [⟨.read, k, addr, b⟩] })) ∧
      busWrite addr v s = { s with events := s.events ++ [⟨.write, k, addr, v⟩] }) ∧
    ((∀ o ∈ s.config.overlays, ¬ (o.start.toNat ≤ addr.toNat ∧ addr.toNat ≤ o.last.toNat)) →
      busRead addr s = (s.mem.read addr.toNat, s) ∧
      busWrite addr v s = { s with mem := s.mem.write addr.toNat v })

/-- A word read is the byte at the address, then the byte at the next address modulo 65536, the first one low
(spec/00_scope.md R16, spec/20_memory.md R75, R79). -/
def Obligations.WordReadIsTwoByteReads : Prop :=
  ∀ (s : State) (addr : Word),
    let lo := busRead addr s
    let hi := busRead (BitVec.ofNat 16 (addr.toNat + 1)) lo.2
    busRead16 addr s = (wordOf lo.1 hi.1, hi.2)

/-! ### Addressing modes -/

/-- Immediate, zeropage and absolute (spec/41_addressing.md R163, R164, R167), in every state: immediate reads
nothing, and its address is that of the operand byte; zeropage reads one byte; absolute reads the low, then the high
byte. -/
def Obligations.UnindexedModesResolve : Prop :=
  ∀ s : State,
    (resolve .immediate s = (some s.pc, { s with pc := s.pc + 1 })) ∧
    (let b := busRead s.pc s
     resolve .zeropage s = (some (BitVec.ofNat 16 b.1.toNat), { s with pc := s.pc + 1, events := b.2.events })) ∧
    (let w := busRead16 s.pc s
     resolve .absolute s = (some w.1, { s with pc := s.pc + 2, events := w.2.events }))

/-- The resolver on plain memory, mode by mode: the effective address and the PC advance of spec/41_addressing.md R160
to R173. Indexed zero-page addresses wrap in the zero page; pointer high bytes come from the next address (D10); other
sums wrap modulo 65536 (D9, D11). -/
def Obligations.ResolverOnPlainMemory : Prop :=
  ∀ s : State, s.config.overlays = [] →
    let b := s.mem.read s.pc.toNat
    let w := wordOf b (s.mem.read (s.pc + 1).toNat)
    let word := fun p : Word => wordOf (s.mem.read p.toNat) (s.mem.read (p + 1).toNat)
    let s1 := { s with pc := s.pc + 1 }
    let s2 := { s with pc := s.pc + 2 }
    resolve .implicit s = (none, s) ∧
    resolve .accumulator s = (none, s) ∧
    resolve .immediate s = (some s.pc, s1) ∧
    resolve .zeropage s = (some (BitVec.ofNat 16 b.toNat), s1) ∧
    resolve .zeropageX s = (some (BitVec.ofNat 16 ((b.toNat + s.x.toNat) % 256)), s1) ∧
    resolve .zeropageY s = (some (BitVec.ofNat 16 ((b.toNat + s.y.toNat) % 256)), s1) ∧
    resolve .absolute s = (some w, s2) ∧
    resolve .absoluteX s = (some (BitVec.ofNat 16 (w.toNat + s.x.toNat)), s2) ∧
    resolve .absoluteY s = (some (BitVec.ofNat 16 (w.toNat + s.y.toNat)), s2) ∧
    resolve .indirect s = (some (word w), s2) ∧
    resolve .indirectX s = (some (word (BitVec.ofNat 16 ((b.toNat + s.x.toNat) % 256))), s1) ∧
    resolve .indirectY s = (some (BitVec.ofNat 16 ((word (BitVec.ofNat 16 b.toNat)).toNat + s.y.toNat)), s1) ∧
    resolve .relative s = (some (BitVec.ofInt 16 (s.pc.toNat + 1 + b.toInt)), s1)

/-- The effective address a meaning computes from its operand, PC being past the instruction, in every state, overlays
included (spec/41_addressing.md R160 to R174; D9 to D11). Only the pointer modes read. -/
def Obligations.EffectiveAddressOfOperand : Prop :=
  ∀ (s : State) (b : Byte) (w : Word),
    effAddr .implied s = (none, s) ∧
    effAddr .acc s = (none, s) ∧
    effAddr (.zp b) s = (some (BitVec.ofNat 16 b.toNat), s) ∧
    effAddr (.zpX b) s = (some (BitVec.ofNat 16 ((b.toNat + s.x.toNat) % 256)), s) ∧
    effAddr (.zpY b) s = (some (BitVec.ofNat 16 ((b.toNat + s.y.toNat) % 256)), s) ∧
    effAddr (.abs w) s = (some w, s) ∧
    effAddr (.absX w) s = (some (BitVec.ofNat 16 (w.toNat + s.x.toNat)), s) ∧
    effAddr (.absY w) s = (some (BitVec.ofNat 16 (w.toNat + s.y.toNat)), s) ∧
    effAddr (.rel b) s = (some (BitVec.ofInt 16 (s.pc.toNat + b.toInt)), s) ∧
    (let p := busRead16 w s
     effAddr (.ind w) s = (some p.1, p.2)) ∧
    (let p := busRead16 (BitVec.ofNat 16 ((b.toNat + s.x.toNat) % 256)) s
     effAddr (.indX b) s = (some p.1, p.2)) ∧
    (let p := busRead16 (BitVec.ofNat 16 b.toNat) s
     effAddr (.indY b) s = (some (BitVec.ofNat 16 (p.1.toNat + s.y.toNat)), p.2))

/-- The resolver moves PC past the operand bytes and changes no other register, no flag and no memory
(spec/41_addressing.md R160, R176); only the record of overlay accesses may grow, and only by reads. -/
def Obligations.ResolverChangesOnlyPc : Prop :=
  ∀ (mode : Mode) (s : State), ∃ reads : List OverlayEvent,
    (resolve mode s).2 =
      { s with pc := s.pc + BitVec.ofNat 16 mode.operandLength, events := s.events ++ reads } ∧
    ∀ e ∈ reads, e.kind = .read

/-- How many bytes the resolver reads in each mode (spec/41_addressing.md R160, column "resolver reads"; no dummy
read, D16), counted under an overlay over the whole address space. -/
def Obligations.ResolverReadCounts : Prop :=
  ∀ (mode : Mode) (s : State), s.config.overlays = [⟨0x0000, 0xFFFF⟩] →
    (resolve mode s).2.events.length = s.events.length +
      match mode with
      | .implicit | .accumulator | .immediate => 0
      | .zeropage | .zeropageX | .zeropageY | .relative => 1
      | .absolute | .absoluteX | .absoluteY => 2
      | .indirectX | .indirectY => 3
      | .indirect => 4

/-- The byte an instruction reads through its operand (spec/41_addressing.md R175, use "read"): one read at the
effective address; for an immediate its data byte, which the fetch has read (log 9). -/
def Obligations.OperandReadIsOneByteRead : Prop :=
  (∀ (v : Byte) (s : State), loadOperand (.imm v) s = (v, s)) ∧
  ∀ (o : Operand) (s : State) (ea : Word), o.mode ≠ .immediate → (effAddr o s).1 = some ea →
    loadOperand o s = busRead ea (effAddr o s).2

/-- A well-formed instruction has an effective address exactly when its mode is neither implicit nor accumulator
(spec/00_scope.md R20, spec/41_addressing.md R160). -/
def Obligations.EffectiveAddressExists : Prop :=
  ∀ (i : Instr) (s : State),
    ((effAddr i.operand s).1 = none ↔ i.mode = .implicit ∨ i.mode = .accumulator)

/-! ### The cycle -/

/-- A step runs the decoded instruction (spec/40_dispatcher.md R142 to R145, R148): when the bytes read at PC, one,
two or three of them, decode to an instruction, the step of a state that is not halted and whose PC is not 0 is `exec`
of it at the state with PC past the bytes; around `exec` there are only those reads. -/
def Obligations.StepRunsDecodedInstruction : Prop :=
  ∀ (s : State) (i : Instr), s.halted = false → s.pc ≠ 0x0000 →
    let r1 := busRead s.pc s
    let r2 := busRead (s.pc + 1) r1.2
    let r3 := busRead (s.pc + 2) r2.2
    (decode [r1.1] = .ok (i, []) → step s = exec i { r1.2 with pc := s.pc + 1 }) ∧
    (decode [r1.1, r2.1] = .ok (i, []) → step s = exec i { r2.2 with pc := s.pc + 2 }) ∧
    (decode [r1.1, r2.1, r3.1] = .ok (i, []) → step s = exec i { r3.2 with pc := s.pc + 3 })

/-- The reset load (spec/40_dispatcher.md R141): a cycle that starts with PC = 0 reads the reset vector at 0xFFFC, low
byte first, writes PC, and changes nothing else. -/
def Obligations.ZeroPcIsResetLoad : Prop :=
  ∀ s : State, s.halted = false → s.pc = 0x0000 →
    let lo := busRead 0xFFFC s
    let hi := busRead 0xFFFD lo.2
    step s = .next { s with pc := wordOf lo.1 hi.1, events := hi.2.events }

/-- No cycle runs against a halted state (spec/40_dispatcher.md R149); that the model answers the fault
processorHalted is its own choice (log 5). -/
def Obligations.HaltedStateStops : Prop :=
  ∀ s : State, s.halted = true → step s = .fault .processorHalted

/-- KIL (spec/40_dispatcher.md R146, D20): a cycle whose opcode byte is 0x02 ends in the halted state, which is the
state at the start of the cycle, PC at the KIL byte, the opcode read performed; and the meaning, which sees PC past
the byte, puts PC back. That Halted is a next state with the bit set is the model's choice (log 5). With the opcode.
-/
def Obligations.KilHaltsInPlace : Prop :=
  (∀ s : State, s.halted = false → s.pc ≠ 0x0000 → (busRead s.pc s).1 = 0x02 →
    step s = .next { s with events := (busRead s.pc s).2.events, halted := true }) ∧
  (∀ s : State, exec .kil s = .next { s with pc := BitVec.ofInt 16 (s.pc.toNat - 1), halted := true }) ∧
  encode .kil = [0x02]

/-- The undocumented fallback (spec/40_dispatcher.md R147; UNDOC_MODE is open, D4, log 4): the meaning runs the
resolver for the byte's mode, with its reads and its PC advance past the operand bytes of that mode, and does nothing
else; with the default mode, implicit, it changes nothing; its encoding is the byte itself. -/
def Obligations.UndocumentedByteIsNoOp : Prop :=
  (∀ (op : Byte) (s : State),
    (let mode := undocMode s.config.undocModes op
     exec (.undoc op) s = .next { s with
       pc := s.pc + BitVec.ofNat 16 mode.operandLength, events := (resolve mode s).2.events }) ∧
    ((∀ e ∈ s.config.undocModes, e.1 ≠ op) → exec (.undoc op) s = .next s)) ∧
  ∀ op : Byte, encode (.undoc op) = [op]

/-! ### Loads and stores -/

/-- LDA, LDX and LDY (spec/42_load_store.md R190 to R192): the byte read through the operand
(OperandReadIsOneByteRead; an immediate's is read by the fetch, log 9) goes to the register, Z and N follow it, and
nothing else changes but the record of accesses; with the opcodes of every mode. -/
def Obligations.LoadsSetRegisterAndZN : Prop :=
  (∀ (o : Operand) (s : State), let m := loadOperand o s
    exec (.lda o) s = .next { s with a := m.1, flags := s.flags.zn m.1, events := m.2.events } ∧
    exec (.ldx o) s = .next { s with x := m.1, flags := s.flags.zn m.1, events := m.2.events } ∧
    exec (.ldy o) s = .next { s with y := m.1, flags := s.flags.zn m.1, events := m.2.events }) ∧
  Mnemonic.lda.encodings = [(.immediate, 0xA9), (.zeropage, 0xA5), (.zeropageX, 0xB5), (.absolute, 0xAD),
    (.absoluteX, 0xBD), (.absoluteY, 0xB9), (.indirectX, 0xA1), (.indirectY, 0xB1)] ∧
  Mnemonic.ldx.encodings = [(.immediate, 0xA2), (.zeropage, 0xA6), (.zeropageY, 0xB6), (.absolute, 0xAE),
    (.absoluteY, 0xBE)] ∧
  Mnemonic.ldy.encodings = [(.immediate, 0xA0), (.zeropage, 0xA4), (.zeropageX, 0xB4), (.absolute, 0xAC),
    (.absoluteX, 0xBC)]

/-- STA, STX and STY (spec/42_load_store.md R193 to R195, spec/41_addressing.md R175, D16): the register is written at
the effective address, which is not read; every other cell, every register and every flag is unchanged; with the
opcodes of every mode. -/
def Obligations.StoresWriteOneByte : Prop :=
  (∀ (o : Operand) (s : State) (ea : Word), s.mem.wf = true → (effAddr o s).1 = some ea →
     (∃ t, exec (.sta o) s = .next t ∧ t = { s with mem := t.mem, events := t.events } ∧
       s.storesAt t ea s.a (effAddr o s).2.events) ∧
     (∃ t, exec (.stx o) s = .next t ∧ t = { s with mem := t.mem, events := t.events } ∧
       s.storesAt t ea s.x (effAddr o s).2.events) ∧
     (∃ t, exec (.sty o) s = .next t ∧ t = { s with mem := t.mem, events := t.events } ∧
       s.storesAt t ea s.y (effAddr o s).2.events)) ∧
  Mnemonic.sta.encodings = [(.zeropage, 0x85), (.zeropageX, 0x95), (.absolute, 0x8D), (.absoluteX, 0x9D),
    (.absoluteY, 0x99), (.indirectX, 0x81), (.indirectY, 0x91)] ∧
  Mnemonic.stx.encodings = [(.zeropage, 0x86), (.zeropageY, 0x96), (.absolute, 0x8E)] ∧
  Mnemonic.sty.encodings = [(.zeropage, 0x84), (.zeropageX, 0x94), (.absolute, 0x8C)]

/-- A store is seen by the next fetch (spec/20_memory.md R91, R437): after STA at a cell no overlay covers, a step
with PC at that cell runs the instruction whose byte was stored. -/
def Obligations.StoreIsSeenByFetch : Prop :=
  ∀ (s : State) (target : Word) (i : Instr), s.mem.wf = true → s.halted = false → s.plainAt target →
    target ≠ 0x0000 → decode [s.a] = .ok (i, []) →
    ∃ t, exec (.sta (.abs target)) s = .next t ∧
      step { t with pc := target } = exec i { t with pc := target + 1 }

/-! ### Arithmetic and logic -/

/-- ADC (spec/43_arith_logic.md R210; an immediate's byte is read by the fetch, log 9), whatever D holds (R212): A is
the sum modulo 256, C says the sum passed 255, V that the operands had one sign and the result the other, Z and N
follow the result; I, D, B and everything else but the record of accesses are unchanged; with the opcodes. -/
def Obligations.AdcResultAndFlags : Prop :=
  (∀ (o : Operand) (s : State), let m := loadOperand o s
    let sum := s.a.toNat + m.1.toNat + s.flags.c.toNat
    let r := BitVec.ofNat 8 (sum % 256)
    exec (.adc o) s = .next { s with
      a := r
      flags := { s.flags with
        c := decide (255 < sum)
        v := decide (s.a.getLsbD 7 = m.1.getLsbD 7 ∧ s.a.getLsbD 7 ≠ r.getLsbD 7) }.zn r
      events := m.2.events }) ∧
  Mnemonic.adc.encodings = [(.immediate, 0x69), (.zeropage, 0x65), (.zeropageX, 0x75), (.absolute, 0x6D),
    (.absoluteX, 0x7D), (.absoluteY, 0x79), (.indirectX, 0x61), (.indirectY, 0x71)]

/-- SBC (spec/43_arith_logic.md R211; log 9 for the immediate form): ADC with the operand byte m replaced by 0xFF - m;
with the opcodes. -/
def Obligations.SbcResultAndFlags : Prop :=
  (∀ (o : Operand) (s : State), let m := loadOperand o s
    let n := BitVec.ofNat 8 (255 - m.1.toNat)
    let sum := s.a.toNat + n.toNat + s.flags.c.toNat
    let r := BitVec.ofNat 8 (sum % 256)
    exec (.sbc o) s = .next { s with
      a := r
      flags := { s.flags with
        c := decide (255 < sum)
        v := decide (s.a.getLsbD 7 = n.getLsbD 7 ∧ s.a.getLsbD 7 ≠ r.getLsbD 7) }.zn r
      events := m.2.events }) ∧
  Mnemonic.sbc.encodings = [(.immediate, 0xE9), (.zeropage, 0xE5), (.zeropageX, 0xF5), (.absolute, 0xED),
    (.absoluteX, 0xFD), (.absoluteY, 0xF9), (.indirectX, 0xE1), (.indirectY, 0xF1)]

/-- SBC subtracts (the corner cases R211 marks as derived): A is A - m - (1 - C) modulo 256, C says that this is not
negative, and V of ADC and of SBC says that the exact signed result does not fit a byte (spec/10_state.md R40, "signed
overflow"). -/
def Obligations.SbcSubtractsAndVIsSignedOverflow : Prop :=
  ∀ (o : Operand) (s : State), let m := (loadOperand o s).1
    (∃ t, exec (.sbc o) s = .next t ∧
      t.a = BitVec.ofInt 8 (s.a.toNat - m.toNat - (1 - s.flags.c.toNat)) ∧
      (t.flags.c = true ↔ (0 : Int) ≤ s.a.toNat - m.toNat - (1 - s.flags.c.toNat)) ∧
      (t.flags.v = true ↔ s.a.toInt - m.toInt - (1 - s.flags.c.toNat) < -128 ∨
        127 < s.a.toInt - m.toInt - (1 - s.flags.c.toNat))) ∧
    (∃ t, exec (.adc o) s = .next t ∧
      (t.flags.v = true ↔ s.a.toInt + m.toInt + s.flags.c.toNat < -128 ∨
        127 < s.a.toInt + m.toInt + s.flags.c.toNat))

/-- ADC with C = 0, then SBC of the same byte with C = 1, restores A, whatever D holds (spec/43_arith_logic.md R217,
derived there from R210 and R211). -/
def Obligations.AdcThenSbcRestoresA : Prop :=
  ∀ (s : State) (m : Byte), ∃ t, execAll [.clc, .adc (.imm m), .sec, .sbc (.imm m)] s = .next t ∧ t.a = s.a

/-- AND, ORA and EOR (spec/43_arith_logic.md R213 to R215; log 9 for the immediate forms): A is combined with the byte
read, Z and N follow the result, and nothing else changes but the record of accesses; with the opcodes. -/
def Obligations.LogicSetsAAndZN : Prop :=
  (∀ (o : Operand) (s : State), let m := loadOperand o s
    exec (.and o) s = .next { s with
      a := s.a &&& m.1, flags := s.flags.zn (s.a &&& m.1), events := m.2.events } ∧
    exec (.ora o) s = .next { s with
      a := s.a ||| m.1, flags := s.flags.zn (s.a ||| m.1), events := m.2.events } ∧
    exec (.eor o) s = .next { s with
      a := s.a ^^^ m.1, flags := s.flags.zn (s.a ^^^ m.1), events := m.2.events }) ∧
  Mnemonic.and.encodings = [(.immediate, 0x29), (.zeropage, 0x25), (.zeropageX, 0x35), (.absolute, 0x2D),
    (.absoluteX, 0x3D), (.absoluteY, 0x39), (.indirectX, 0x21), (.indirectY, 0x31)] ∧
  Mnemonic.ora.encodings = [(.immediate, 0x09), (.zeropage, 0x05), (.zeropageX, 0x15), (.absolute, 0x0D),
    (.absoluteX, 0x1D), (.absoluteY, 0x19), (.indirectX, 0x01), (.indirectY, 0x11)] ∧
  Mnemonic.eor.encodings = [(.immediate, 0x49), (.zeropage, 0x45), (.zeropageX, 0x55), (.absolute, 0x4D),
    (.absoluteX, 0x5D), (.absoluteY, 0x59), (.indirectX, 0x41), (.indirectY, 0x51)]

/-- BIT (spec/43_arith_logic.md R216): m is the byte at the effective address; Z says that A and m have no bit in
common, N and V are bits 7 and 6 of m; A, C and everything else but the record of accesses are unchanged; with the
opcodes. -/
def Obligations.BitTestsWithoutStoring : Prop :=
  (∀ (o : Operand) (s : State) (ea : Word), o.mode ≠ .immediate → (effAddr o s).1 = some ea →
    let m := busRead ea (effAddr o s).2
    exec (.bit o) s = .next { s with
      flags := { s.flags with z := decide (s.a &&& m.1 = 0), n := m.1.getLsbD 7, v := m.1.getLsbD 6 }
      events := m.2.events }) ∧
  Mnemonic.bit.encodings = [(.zeropage, 0x24), (.absolute, 0x2C)]

/-- None of the three flags that the spec calls without effect steers execution (spec/10_state.md R42, R43, R46, R47;
that I masks nothing is D12): but for PHP and BRK, which push them, changing D alone before an instruction changes at
most D after it, and so for I alone and B alone. The states compared have one overlay history, so their overlay reads
answer the same bytes: that rests on log 2. -/
def Obligations.DAndIAndBSteerNothing : Prop :=
  ∀ (i : Instr) (s : State) (x : Bool), i.mnemonic ≠ .php → i.mnemonic ≠ .brk →
    ∃ t, exec i s = .next t ∧
      (∃ y, exec i { s with flags := { s.flags with d := x } } = .next { t with flags := { t.flags with d := y } }) ∧
      (∃ y, exec i { s with flags := { s.flags with i := x } } = .next { t with flags := { t.flags with i := y } }) ∧
      (∃ y, exec i { s with flags := { s.flags with b := x } } = .next { t with flags := { t.flags with b := y } })

/-! ### Shifts and rotates -/

/-- ASL and LSR (spec/44_shift_rotate.md R240, R241), on A and on memory; with the opcodes. -/
def Obligations.ShiftsResultAndCarry : Prop :=
  ShiftsOperand .asl (fun v _ => BitVec.ofNat 8 (2 * v.toNat % 256)) (fun v => v.getLsbD 7) ∧
  ShiftsOperand .lsr (fun v _ => BitVec.ofNat 8 (v.toNat / 2)) (fun v => v.getLsbD 0) ∧
  Mnemonic.asl.encodings = [(.accumulator, 0x0A), (.zeropage, 0x06), (.zeropageX, 0x16), (.absolute, 0x0E),
    (.absoluteX, 0x1E)] ∧
  Mnemonic.lsr.encodings = [(.accumulator, 0x4A), (.zeropage, 0x46), (.zeropageX, 0x56), (.absolute, 0x4E),
    (.absoluteX, 0x5E)]

/-- ROL and ROR (spec/44_shift_rotate.md R242, R243), on A and on memory, feeding the old C into the vacated bit; with
the opcodes. -/
def Obligations.RotatesResultAndCarry : Prop :=
  ShiftsOperand .rol (fun v c => BitVec.ofNat 8 ((2 * v.toNat + c.toNat) % 256)) (fun v => v.getLsbD 7) ∧
  ShiftsOperand .ror (fun v c => BitVec.ofNat 8 (v.toNat / 2 + 128 * c.toNat)) (fun v => v.getLsbD 0) ∧
  Mnemonic.rol.encodings = [(.accumulator, 0x2A), (.zeropage, 0x26), (.zeropageX, 0x36), (.absolute, 0x2E),
    (.absoluteX, 0x3E)] ∧
  Mnemonic.ror.encodings = [(.accumulator, 0x6A), (.zeropage, 0x66), (.zeropageX, 0x76), (.absolute, 0x6E),
    (.absoluteX, 0x7E)]

/-- Nine ROLs of A restore A and C (a corner case R242 marks as derived: a 9-bit rotation), and so do nine RORs. -/
def Obligations.NineRotatesRestore : Prop :=
  ∀ s : State,
    (∃ t, execAll (List.replicate 9 (.rol .acc)) s = .next t ∧ t.a = s.a ∧ t.flags.c = s.flags.c) ∧
    (∃ t, execAll (List.replicate 9 (.ror .acc)) s = .next t ∧ t.a = s.a ∧ t.flags.c = s.flags.c)

/-! ### Compare, increment, decrement -/

/-- CMP, CPX and CPY (spec/45_compare_incdec.md R260 to R263; log 9 for the immediate forms): C says that the register
is at least the byte read, Z that they are equal, N is bit 7 of the difference modulo 256; no register is written;
with the opcodes. -/
def Obligations.ComparesSetCZN : Prop :=
  (∀ (o : Operand) (s : State), let m := loadOperand o s
    let f := fun r : Byte => { s.flags with
      c := decide (m.1.toNat ≤ r.toNat), z := decide (r = m.1), n := (BitVec.ofInt 8 (r.toNat - m.1.toNat)).getLsbD 7 }
    exec (.cmp o) s = .next { s with flags := f s.a, events := m.2.events } ∧
    exec (.cpx o) s = .next { s with flags := f s.x, events := m.2.events } ∧
    exec (.cpy o) s = .next { s with flags := f s.y, events := m.2.events }) ∧
  Mnemonic.cmp.encodings = [(.immediate, 0xC9), (.zeropage, 0xC5), (.zeropageX, 0xD5), (.absolute, 0xCD),
    (.absoluteX, 0xDD), (.absoluteY, 0xD9), (.indirectX, 0xC1), (.indirectY, 0xD1)] ∧
  Mnemonic.cpx.encodings = [(.immediate, 0xE0), (.zeropage, 0xE4), (.absolute, 0xEC)] ∧
  Mnemonic.cpy.encodings = [(.immediate, 0xC0), (.zeropage, 0xC4), (.absolute, 0xCC)]

/-- INC and DEC (spec/45_compare_incdec.md R264, R265; one read, one write, D16): the byte at the effective address
plus or minus 1 modulo 256 is written back, Z and N follow it, C, V and everything else are unchanged; with the
opcodes of every mode. -/
def Obligations.IncDecMemory : Prop :=
  (∀ (o : Operand) (s : State) (ea : Word), s.mem.wf = true → (effAddr o s).1 = some ea →
     let m := busRead ea (effAddr o s).2
     let up := BitVec.ofNat 8 ((m.1.toNat + 1) % 256)
     let down := BitVec.ofNat 8 ((m.1.toNat + 255) % 256)
     (∃ t, exec (.inc o) s = .next t ∧
       t = { s with flags := s.flags.zn up, mem := t.mem, events := t.events } ∧ s.storesAt t ea up m.2.events) ∧
     (∃ t, exec (.dec o) s = .next t ∧
       t = { s with flags := s.flags.zn down, mem := t.mem, events := t.events } ∧ s.storesAt t ea down m.2.events)) ∧
  Mnemonic.inc.encodings = [(.zeropage, 0xE6), (.zeropageX, 0xF6), (.absolute, 0xEE), (.absoluteX, 0xFE)] ∧
  Mnemonic.dec.encodings = [(.zeropage, 0xC6), (.zeropageX, 0xD6), (.absolute, 0xCE), (.absoluteX, 0xDE)]

/-- INX, INY, DEX and DEY (spec/45_compare_incdec.md R266 to R269): the register plus or minus 1 modulo 256, Z and N
from it, nothing else; with the opcodes. -/
def Obligations.IncDecRegister : Prop :=
  (∀ s : State,
    let up := fun r : Byte => BitVec.ofNat 8 ((r.toNat + 1) % 256)
    let down := fun r : Byte => BitVec.ofNat 8 ((r.toNat + 255) % 256)
    exec .inx s = .next { s with x := up s.x, flags := s.flags.zn (up s.x) } ∧
    exec .iny s = .next { s with y := up s.y, flags := s.flags.zn (up s.y) } ∧
    exec .dex s = .next { s with x := down s.x, flags := s.flags.zn (down s.x) } ∧
    exec .dey s = .next { s with y := down s.y, flags := s.flags.zn (down s.y) }) ∧
  encode .inx = [0xE8] ∧ encode .iny = [0xC8] ∧ encode .dex = [0xCA] ∧ encode .dey = [0x88]

/-! ### Branches and jumps -/

/-- The eight branches (spec/46_branch_jump.md R290 to R298; which flag and value each tests is D18, the wrap of the
target D11): taken or not, nothing but PC changes; with the opcodes. -/
def Obligations.BranchesTakenOnTheirFlag : Prop :=
  BranchesWhen .bcc 0x90 (fun f => !f.c) ∧ BranchesWhen .bcs 0xB0 (fun f => f.c) ∧
  BranchesWhen .beq 0xF0 (fun f => f.z) ∧ BranchesWhen .bne 0xD0 (fun f => !f.z) ∧
  BranchesWhen .bmi 0x30 (fun f => f.n) ∧ BranchesWhen .bpl 0x10 (fun f => !f.n) ∧
  BranchesWhen .bvc 0x50 (fun f => !f.v) ∧ BranchesWhen .bvs 0x70 (fun f => f.v)

/-- JMP (spec/46_branch_jump.md R299): PC becomes the operand word, or the word read at the operand pointer, low byte
first; nothing else changes but the record of accesses; with the opcodes. -/
def Obligations.JmpSetsPc : Prop :=
  (∀ (w : Word) (s : State),
    exec (.jmp (.abs w)) s = .next { s with pc := w } ∧
    (let lo := busRead w s
     let hi := busRead (BitVec.ofNat 16 (w.toNat + 1)) lo.2
     exec (.jmp (.ind w)) s = .next { s with pc := wordOf lo.1 hi.1, events := hi.2.events })) ∧
  Mnemonic.jmp.operandModes = [.absolute, .indirect] ∧
  Mnemonic.jmp.encodings = [(.absolute, 0x4C), (.indirect, 0x6C)]

/-! ### Stack -/

/-- PHA and PHP (spec/47_stack.md R315, R317; write, then decrement, D7; the status layout D5, D6): the byte goes to
the stack cell of S, S decrements modulo 256, and every other cell, register and flag, the stored B included, is
unchanged; with the opcodes. -/
def Obligations.PushesWriteStackCell : Prop :=
  (∀ s : State, s.mem.wf = true →
     let p := s.flags
     (∃ t, exec .pha s = .next t ∧
       t = { s with sp := BitVec.ofNat 8 (s.sp.toNat + 255), mem := t.mem, events := t.events } ∧
       s.storesAt t (stackCell s.sp) s.a s.events) ∧
     (∃ t, exec .php s = .next t ∧
       t = { s with sp := BitVec.ofNat 8 (s.sp.toNat + 255), mem := t.mem, events := t.events } ∧
       s.storesAt t (stackCell s.sp)
         (BitVec.ofNat 8 (128 * p.n.toNat + 64 * p.v.toNat + 32 + 16 + 8 * p.d.toNat + 4 * p.i.toNat + 2 * p.z.toNat +
           p.c.toNat)) s.events)) ∧
  encode .pha = [0x48] ∧ encode .php = [0x08]

/-- PLA and PLP (spec/47_stack.md R316, R318; increment, then read, D7; layout D5): the byte read at the stack cell of
S + 1 modulo 256 goes to A with Z and N, or to all seven flags, bit 5 ignored; nothing else changes; with the opcodes.
-/
def Obligations.PullsReadStackCell : Prop :=
  (∀ s : State,
     let r := busRead (stackCell (s.sp + 1)) s
     exec .pla s = .next { s with
       a := r.1, sp := s.sp + 1, flags := s.flags.zn r.1, events := r.2.events } ∧
     exec .plp s = .next { s with
       sp := s.sp + 1
       flags := { n := r.1.getLsbD 7, v := r.1.getLsbD 6, b := r.1.getLsbD 4, d := r.1.getLsbD 3,
                  i := r.1.getLsbD 2, z := r.1.getLsbD 1, c := r.1.getLsbD 0 }
       events := r.2.events }) ∧
  encode .pla = [0x68] ∧ encode .plp = [0x28]

/-- The packed status byte (spec/10_state.md R44, R45; layout and bit 5 are D5, D6): unpacking what was packed gives
the flags back but for B, which is the packed one, and bit 5 of a pulled byte does not matter. -/
def Obligations.StatusPackingRoundTrip : Prop :=
  (∀ (f : Flags) (b : Bool), unpackP (packP f b) = { f with b := b } ∧ (packP f b).getLsbD 5 = true) ∧
  ∀ v : Byte, unpackP (v ^^^ 0x20) = unpackP v

/-- The stack round trip (spec/47_stack.md R314, derived from R310 to R313): a pushed word is pulled back and S
returns to its value, for every S, the wrap included, when no overlay covers the two cells. -/
def Obligations.PushedWordIsPulledBack : Prop :=
  ∀ (s : State) (w : Word), s.mem.wf = true → s.plainAt (stackCell s.sp) → s.plainAt (stackCell (s.sp - 1)) →
    (pull16 (push16 w s)).1 = w ∧ (pull16 (push16 w s)).2.sp = s.sp

/-! ### Subroutines and the interrupt -/

/-- JSR and RTS (spec/48_subroutine_interrupt.md R330, R331; order on the stack D7, D8): JSR pushes PC - 1, the
address of its last byte, high byte first, and jumps; RTS pulls the low, then the high byte and continues one past
that word; nothing else changes; with the encodings. -/
def Obligations.SubroutineCallAndReturn : Prop :=
  (∀ (target : Word) (s : State), s.mem.wf = true →
    let back := s.pc.toNat + 65535
    ∃ u, s.pushesBytes s.sp [BitVec.ofNat 8 (back / 256), BitVec.ofNat 8 back] u ∧
      exec (.jsr target) s = .next { u with pc := target, sp := s.sp - 2 }) ∧
  (∀ s : State,
     let lo := busRead (stackCell (s.sp + 1)) s
     let hi := busRead (stackCell (s.sp + 2)) lo.2
     exec .rts s = .next { s with
       pc := BitVec.ofNat 16 ((wordOf lo.1 hi.1).toNat + 1), sp := s.sp + 2, events := hi.2.events }) ∧
  (∀ target : Word,
    encode (.jsr target) = [0x20, BitVec.ofNat 8 (target.toNat % 256), BitVec.ofNat 8 (target.toNat / 256)]) ∧
  encode .rts = [0x60]

/-- The JSR and RTS round trip (spec/48_subroutine_interrupt.md R331, the property of §8): RTS after JSR returns PC to
the instruction after the JSR and S to its value, when no overlay covers the two stack cells. -/
def Obligations.RtsReturnsPastJsr : Prop :=
  ∀ (target : Word) (s : State), s.mem.wf = true → s.plainAt (stackCell s.sp) → s.plainAt (stackCell (s.sp - 1)) →
    ∃ t, execAll [.jsr target, .rts] s = .next t ∧ t.pc = s.pc ∧ t.sp = s.sp

/-- BRK, the interrupt entry (spec/48_subroutine_interrupt.md R332, spec/60_exceptions.md R406; D5 to D8): it pushes
the BRK's address + 2, high byte first, and the status byte with B and bit 5 set and I as it was; PC becomes the word
at 0xFFFE and I becomes 1, whatever I held; the other flags, the stored B among them, A, X and Y are unchanged; with
the opcode. -/
def Obligations.BrkEntersThroughIrqVector : Prop :=
  (∀ s : State, s.mem.wf = true →
     let back := s.pc.toNat + 1
     let p := s.flags
     let status := BitVec.ofNat 8 (128 * p.n.toNat + 64 * p.v.toNat + 32 + 16 + 8 * p.d.toNat + 4 * p.i.toNat +
       2 * p.z.toNat + p.c.toNat)
     ∃ u, s.pushesBytes s.sp [BitVec.ofNat 8 (back / 256), BitVec.ofNat 8 back, status] u ∧
       (let lo := busRead 0xFFFE u
        let hi := busRead 0xFFFF lo.2
        exec .brk s = .next { u with
          pc := wordOf lo.1 hi.1, sp := s.sp - 3, flags := { s.flags with i := true }, events := hi.2.events })) ∧
  encode .brk = [0x00]

/-- RTI, the return (spec/48_subroutine_interrupt.md R333, spec/60_exceptions.md R407; D5 to D8): the status byte is
pulled into all seven flags, then PC, low byte first, with no + 1; nothing else changes; with the opcode. -/
def Obligations.RtiRestoresFlagsAndPc : Prop :=
  (∀ s : State,
     let p := busRead (stackCell (s.sp + 1)) s
     let lo := busRead (stackCell (s.sp + 2)) p.2
     let hi := busRead (stackCell (s.sp + 3)) lo.2
     exec .rti s = .next { s with
       pc := wordOf lo.1 hi.1
       sp := s.sp + 3
       flags := { n := p.1.getLsbD 7, v := p.1.getLsbD 6, b := p.1.getLsbD 4, d := p.1.getLsbD 3,
                  i := p.1.getLsbD 2, z := p.1.getLsbD 1, c := p.1.getLsbD 0 }
       events := hi.2.events }) ∧
  encode .rti = [0x40]

/-- RTI after BRK (spec/60_exceptions.md R407, derived there): PC is the BRK's address + 2, every flag is as before
the BRK, I included, but the stored B, which is 1; S, A, X and Y are as before; when no overlay covers the three stack
cells. -/
def Obligations.RtiAfterBrkRestores : Prop :=
  ∀ s : State, s.mem.wf = true →
    s.plainAt (stackCell s.sp) → s.plainAt (stackCell (s.sp - 1)) → s.plainAt (stackCell (s.sp - 2)) →
    ∃ t, execAll [.brk, .rti] s = .next t ∧
      t.pc = s.pc + 1 ∧ t.flags = { s.flags with b := true } ∧ t.sp = s.sp ∧ t.a = s.a ∧ t.x = s.x ∧ t.y = s.y

/-! ### Flags, transfers, no-op -/

/-- The flag instructions (spec/49_flags_transfer_nop.md R350 to R356): each sets or clears its one flag and changes
nothing else; with the opcodes. -/
def Obligations.FlagInstructionsSetOneFlag : Prop :=
  (∀ s : State,
    exec .sec s = .next { s with flags := { s.flags with c := true } } ∧
    exec .clc s = .next { s with flags := { s.flags with c := false } } ∧
    exec .sei s = .next { s with flags := { s.flags with i := true } } ∧
    exec .cli s = .next { s with flags := { s.flags with i := false } } ∧
    exec .sed s = .next { s with flags := { s.flags with d := true } } ∧
    exec .cld s = .next { s with flags := { s.flags with d := false } } ∧
    exec .clv s = .next { s with flags := { s.flags with v := false } }) ∧
  encode .sec = [0x38] ∧ encode .clc = [0x18] ∧ encode .sei = [0x78] ∧ encode .cli = [0x58] ∧
  encode .sed = [0xF8] ∧ encode .cld = [0xD8] ∧ encode .clv = [0xB8]

/-- The transfers (spec/49_flags_transfer_nop.md R357 to R362): the source register is copied; Z and N follow the byte
but for TXS, which changes no flag; nothing else changes; with the opcodes. -/
def Obligations.TransfersCopyRegister : Prop :=
  (∀ s : State,
    exec .tax s = .next { s with x := s.a, flags := s.flags.zn s.a } ∧
    exec .tay s = .next { s with y := s.a, flags := s.flags.zn s.a } ∧
    exec .tsx s = .next { s with x := s.sp, flags := s.flags.zn s.sp } ∧
    exec .txa s = .next { s with a := s.x, flags := s.flags.zn s.x } ∧
    exec .txs s = .next { s with sp := s.x } ∧
    exec .tya s = .next { s with a := s.y, flags := s.flags.zn s.y }) ∧
  encode .tax = [0xAA] ∧ encode .tay = [0xA8] ∧ encode .tsx = [0xBA] ∧ encode .txa = [0x8A] ∧
  encode .txs = [0x9A] ∧ encode .tya = [0x98]

/-- NOP (spec/49_flags_transfer_nop.md R363): no effect, PC having advanced by 1; with the opcode. -/
def Obligations.NopHasNoEffect : Prop :=
  (∀ s : State, exec .nop s = .next s) ∧ encode .nop = [0xEA] ∧
  ∀ s : State, s.halted = false → s.pc ≠ 0x0000 → (busRead s.pc s).1 = 0xEA →
    step s = .next { s with pc := s.pc + 1, events := (busRead s.pc s).2.events }

/-! ### The whole machine -/

/-- Which instructions may change each flag (spec/10_state.md R41): every other one leaves it as it was. -/
def Obligations.OnlyListedInstructionsChangeFlags : Prop :=
  ∀ (i : Instr) (s t : State), exec i s = .next t →
    let zn : List Mnemonic := [.lda, .ldx, .ldy, .adc, .sbc, .and, .ora, .eor, .bit, .asl, .lsr, .rol, .ror, .cmp, .cpx,
      .cpy, .inc, .dec, .inx, .iny, .dex, .dey, .pla, .tax, .tay, .tsx, .txa, .tya, .plp, .rti]
    (t.flags.c ≠ s.flags.c → i.mnemonic ∈
      ([.adc, .sbc, .asl, .lsr, .rol, .ror, .cmp, .cpx, .cpy, .sec, .clc, .plp, .rti] : List Mnemonic)) ∧
    (t.flags.z ≠ s.flags.z → i.mnemonic ∈ zn) ∧
    (t.flags.n ≠ s.flags.n → i.mnemonic ∈ zn) ∧
    (t.flags.i ≠ s.flags.i → i.mnemonic ∈ ([.sei, .cli, .brk, .plp, .rti] : List Mnemonic)) ∧
    (t.flags.d ≠ s.flags.d → i.mnemonic ∈ ([.sed, .cld, .plp, .rti] : List Mnemonic)) ∧
    (t.flags.b ≠ s.flags.b → i.mnemonic ∈ ([.plp, .rti] : List Mnemonic)) ∧
    (t.flags.v ≠ s.flags.v → i.mnemonic ∈ ([.adc, .sbc, .bit, .clv, .plp, .rti] : List Mnemonic))

/-- Which instructions may change A, X, Y, S (spec/10_state.md R32 to R35, "Written by"), the Halted bit
(spec/40_dispatcher.md R146) and memory (spec/41_addressing.md R175, spec/47_stack.md): every other well-formed one
leaves it as it was. -/
def Obligations.OnlyListedInstructionsChangeRegisters : Prop :=
  ∀ (i : Instr) (s t : State), i.wellFormed = true → exec i s = .next t →
    (t.a ≠ s.a → i.mnemonic ∈ ([.lda, .adc, .sbc, .and, .ora, .eor, .pla, .txa, .tya] : List Mnemonic) ∨
      i.mnemonic ∈ ([.asl, .lsr, .rol, .ror] : List Mnemonic) ∧ i.mode = .accumulator) ∧
    (t.x ≠ s.x → i.mnemonic ∈ ([.ldx, .inx, .dex, .tax, .tsx] : List Mnemonic)) ∧
    (t.y ≠ s.y → i.mnemonic ∈ ([.ldy, .iny, .dey, .tay] : List Mnemonic)) ∧
    (t.sp ≠ s.sp →
      i.mnemonic ∈ ([.txs, .pha, .php, .jsr, .brk, .pla, .plp, .rts, .rti] : List Mnemonic)) ∧
    (t.halted ≠ s.halted → i.mnemonic = .kil) ∧
    ((∃ b, t.mem.read b ≠ s.mem.read b) →
      i.mnemonic ∈ ([.sta, .stx, .sty, .inc, .dec, .pha, .php, .jsr, .brk] : List Mnemonic) ∨
      i.mnemonic ∈ ([.asl, .lsr, .rol, .ror] : List Mnemonic) ∧ i.mode ≠ .accumulator)

/-- The invariant (canonical plain memory; every recorded access one that its overlay took) is kept by every step from
every state that meets it. -/
def Obligations.StepKeepsInvariant : Prop :=
  ∀ s t : State, s.inv → step s = .next t → t.inv

/-- The power-on state meets the invariant, whatever INIT_A, INIT_X, INIT_Y and the platform's parameters. -/
def Obligations.PowerOnMeetsInvariant : Prop :=
  (∀ (a x y : Byte) (config : Config), (State.powerOn a x y config).inv) ∧ State.reset.inv

/-- No access fails and nothing traps (spec/20_memory.md R74, spec/60_exceptions.md R400, R402): every state that is
not halted has a next state; a run of k cycles ends in a state or stops at a halted state it reached before (that a
cycle against a halted state is the fault processorHalted is the model's choice, log 5); and what a run reaches from a
state that meets the invariant meets it. -/
def Obligations.EveryRunGoesOnUnlessHalted : Prop :=
  (∀ s : State, s.halted = false → ∃ t, step s = .next t) ∧
  (∀ (k : Nat) (s : State), (∃ t, Host.Core.run Sys2Proof.core k s = .next t) ∨
    ∃ j t, j < k ∧ Host.Core.run Sys2Proof.core j s = .next t ∧ t.halted = true ∧
      Host.Core.run Sys2Proof.core k s = .fault .processorHalted) ∧
  ∀ s t : State, s.inv → Reaches s t → t.inv

/-- Only KIL halts (spec/60_exceptions.md R400, R401, R405): a step leads to a halted state exactly when it is no
reset load and its opcode byte is 0x02. -/
def Obligations.OnlyKilHalts : Prop :=
  ∀ s t : State, s.halted = false → step s = .next t →
    (t.halted = true ↔ s.pc ≠ 0x0000 ∧ (busRead s.pc s).1 = 0x02)

/-- The platform's parameters are fixed for a run (spec/00_scope.md R10, spec/20_memory.md R80) and the record of
overlay accesses only grows (R82, D19). -/
def Obligations.ParametersFixedAndRecordGrows : Prop :=
  ∀ s t : State, step s = .next t → t.config = s.config ∧ ∃ more, t.events = s.events ++ more

/-- Power-on (spec/10_state.md R51): PC is 0, S is 0xFF, all flags are cleared, nothing is halted, every cell reads 0,
and A, X and Y are any bytes. The reset state of the model is one of these. -/
def Obligations.PowerOnValues : Prop :=
  (∀ (initA initX initY : Byte) (config : Config), let s := State.powerOn initA initX initY config
    s.pc = 0x0000 ∧ s.sp = 0xFF ∧ s.a = initA ∧ s.x = initX ∧ s.y = initY ∧ s.halted = false ∧
    s.flags.c = false ∧ s.flags.z = false ∧ s.flags.i = false ∧ s.flags.d = false ∧ s.flags.b = false ∧
    s.flags.v = false ∧ s.flags.n = false ∧ ∀ b, s.mem.read b = 0x00) ∧
  ∃ initA initX initY, State.reset = State.powerOn initA initX initY Config.default

/-- The host's boot and the first cycle (spec/70_reset_and_hazards.md R431, R433; the order is D24): with no overlay,
the first cycle sets PC to the reset vector the host wrote, whatever the image, and changes nothing else; BRK's vector
is the one written. -/
def Obligations.BootThenResetLoad : Prop :=
  ∀ (initA initX initY : Byte) (image : Image) (reset irq : Word) (undocModes : List (Byte × Mode)),
    let s := boot initA initX initY image reset irq [] undocModes
    step s = .next { s with pc := reset } ∧ (getIrqVector s).1 = irq
end

