-- ==== Sys2Proof/Laws/Memory.lean ====
section
/-! SUPPORT. Laws.Memory: every memory operation keeps the canonical form. -/

namespace Sys2Proof.Machine

/-- A canonical memory is canonical from any lower bound. -/
theorem Memory.wfFrom_mono {m : Memory} {b b' : Nat} (h : b' ≤ b) (hm : Memory.wfFrom b m = true) :
    Memory.wfFrom b' m = true := by
  cases m with
  | nil => rfl
  | cons e rest =>
    obtain ⟨k, v⟩ := e
    simp only [Memory.wfFrom, Bool.and_eq_true, decide_eq_true_eq] at hm ⊢
    exact ⟨⟨⟨by omega, hm.1.1.2⟩, hm.1.2⟩, hm.2⟩

/-- A write at or above the lower bound keeps the canonical form from that bound. -/
theorem Memory.wfFrom_write {m : Memory} {b addr : Nat} (hm : Memory.wfFrom b m = true) (hb : b ≤ addr)
    (ha : addr < 65536) (v : Byte) : Memory.wfFrom b (m.write addr v) = true := by
  induction m generalizing b with
  | nil =>
    simp only [Memory.write]
    split
    · rfl
    · simp_all [Memory.wfFrom]
  | cons e rest ih =>
    obtain ⟨k, w⟩ := e
    simp only [Memory.wfFrom, Bool.and_eq_true, decide_eq_true_eq] at hm
    obtain ⟨⟨⟨hk, hk'⟩, hw⟩, hrest⟩ := hm
    simp only [Memory.write]
    split
    · split
      · simp_all [Memory.wfFrom]
      · simp_all [Memory.wfFrom]
    · split
      · split
        · exact Memory.wfFrom_mono (by omega) hrest
        · simp_all [Memory.wfFrom]
      · have := ih hrest (by omega)
        simp_all [Memory.wfFrom]

/-- A write keeps the canonical form. -/
theorem Memory.wf_write {m : Memory} {addr : Nat} (hm : m.wf = true) (ha : addr < 65536) (v : Byte) :
    (m.write addr v).wf = true :=
  Memory.wfFrom_write hm (Nat.zero_le addr) ha v

/-- The empty memory is canonical. -/
@[simp] theorem Memory.wf_nil : Memory.wf [] = true := rfl

/-- Below the lower bound of a canonical memory nothing is listed. -/
theorem Memory.read_below {m : Memory} {b addr : Nat} (hm : Memory.wfFrom b m = true) (h : addr < b) :
    m.read addr = Memory.unlisted := by
  cases m with
  | nil => rfl
  | cons e rest =>
    obtain ⟨k, v⟩ := e
    simp only [Memory.wfFrom, Bool.and_eq_true, decide_eq_true_eq] at hm
    simp only [Memory.read, if_pos (show addr < k by omega)]

end Sys2Proof.Machine
end

