-- ==== Sys2Proof/Laws/Bus.lean ====
section
/-! SUPPORT. Laws.Bus: what a byte access, a word read, a push and a pull can do. A read changes the event record alone
(`busRead_frame`), a write the event record and plain memory (`busWrite_frame`), which keeps its canonical form. -/

namespace Sys2Proof.Machine

/-- A read of a cell no overlay covers answers the plain cell and changes nothing. -/
theorem busRead_plain {addr : Word} {s : State} (h : overlayAt s.config.overlays addr = none) :
    busRead addr s = (s.mem.read addr.toNat, s) := by
  simp only [busRead, h]

/-- A read an overlay takes answers the free value and records the access. -/
theorem busRead_overlay {addr : Word} {s : State} {k : Nat} (h : overlayAt s.config.overlays addr = some k) :
    busRead addr s = (Config.overlayRead k addr s.events,
      s.logEvent ⟨.read, k, addr, Config.overlayRead k addr s.events⟩) := by
  simp only [busRead, h]

/-- A read changes the event record alone. -/
theorem busRead_frame (addr : Word) (s : State) :
    (busRead addr s).2 = { s with events := (busRead addr s).2.events } := by
  unfold busRead
  split <;> rfl

/-- What a read answers and records depends on plain memory, the parameters and the event record alone. -/
theorem busRead_congr {s t : State} (addr : Word) (hm : s.mem = t.mem) (hc : s.config = t.config)
    (he : s.events = t.events) :
    (busRead addr s).1 = (busRead addr t).1 ∧ (busRead addr s).2.events = (busRead addr t).2.events := by
  unfold busRead
  rw [hc, hm, he]
  split <;> simp [he]

@[simp] theorem busRead_pc (addr : Word) (s : State) : (busRead addr s).2.pc = s.pc := by
  rw [busRead_frame]
@[simp] theorem busRead_a (addr : Word) (s : State) : (busRead addr s).2.a = s.a := by
  rw [busRead_frame]
@[simp] theorem busRead_x (addr : Word) (s : State) : (busRead addr s).2.x = s.x := by
  rw [busRead_frame]
@[simp] theorem busRead_y (addr : Word) (s : State) : (busRead addr s).2.y = s.y := by
  rw [busRead_frame]
@[simp] theorem busRead_sp (addr : Word) (s : State) : (busRead addr s).2.sp = s.sp := by
  rw [busRead_frame]
@[simp] theorem busRead_flags (addr : Word) (s : State) : (busRead addr s).2.flags = s.flags := by
  rw [busRead_frame]
@[simp] theorem busRead_mem (addr : Word) (s : State) : (busRead addr s).2.mem = s.mem := by
  rw [busRead_frame]
@[simp] theorem busRead_config (addr : Word) (s : State) : (busRead addr s).2.config = s.config := by
  rw [busRead_frame]
@[simp] theorem busRead_halted (addr : Word) (s : State) : (busRead addr s).2.halted = s.halted := by
  rw [busRead_frame]

/-- The flags do not reach the bus: a read from a state with other flags answers and records the same. -/
theorem busRead_setFlags (addr : Word) (s : State) (f : Flags) :
    busRead addr (s.setFlags f) = ((busRead addr s).1, (busRead addr s).2.setFlags f) := by
  cases h : overlayAt s.config.overlays addr with
  | none => rw [busRead_plain (s := s) h, busRead_plain (by exact h)]; rfl
  | some k => rw [busRead_overlay (s := s) h, busRead_overlay (k := k) (by exact h)]; rfl

/-- A word read changes the event record alone. -/
theorem busRead16_frame (addr : Word) (s : State) :
    (busRead16 addr s).2 = { s with events := (busRead16 addr s).2.events } := by
  simp only [busRead16]
  rw [busRead_frame (addr + 1), busRead_frame addr]

@[simp] theorem busRead16_pc (addr : Word) (s : State) : (busRead16 addr s).2.pc = s.pc := by
  rw [busRead16_frame]
@[simp] theorem busRead16_a (addr : Word) (s : State) : (busRead16 addr s).2.a = s.a := by
  rw [busRead16_frame]
@[simp] theorem busRead16_x (addr : Word) (s : State) : (busRead16 addr s).2.x = s.x := by
  rw [busRead16_frame]
@[simp] theorem busRead16_y (addr : Word) (s : State) : (busRead16 addr s).2.y = s.y := by
  rw [busRead16_frame]
@[simp] theorem busRead16_sp (addr : Word) (s : State) : (busRead16 addr s).2.sp = s.sp := by
  rw [busRead16_frame]
@[simp] theorem busRead16_flags (addr : Word) (s : State) : (busRead16 addr s).2.flags = s.flags := by
  rw [busRead16_frame]
@[simp] theorem busRead16_mem (addr : Word) (s : State) : (busRead16 addr s).2.mem = s.mem := by
  rw [busRead16_frame]
@[simp] theorem busRead16_config (addr : Word) (s : State) : (busRead16 addr s).2.config = s.config := by
  rw [busRead16_frame]
@[simp] theorem busRead16_halted (addr : Word) (s : State) : (busRead16 addr s).2.halted = s.halted := by
  rw [busRead16_frame]

/-- A word read of two plain cells: little-endian, nothing changes. -/
theorem busRead16_plain {addr : Word} {s : State} (h0 : overlayAt s.config.overlays addr = none)
    (h1 : overlayAt s.config.overlays (addr + 1) = none) :
    busRead16 addr s = (wordLE (s.mem.read addr.toNat) (s.mem.read (addr + 1).toNat), s) := by
  simp only [busRead16, busRead_plain h0, busRead_plain h1]

/-- A write of a cell no overlay covers writes the plain cell. -/
theorem busWrite_plain {addr : Word} {v : Byte} {s : State} (h : overlayAt s.config.overlays addr = none) :
    busWrite addr v s = s.setMem (s.mem.write addr.toNat v) := by
  simp only [busWrite, h]

/-- A write an overlay takes records the access and leaves plain memory alone. -/
theorem busWrite_overlay {addr : Word} {v : Byte} {s : State} {k : Nat}
    (h : overlayAt s.config.overlays addr = some k) :
    busWrite addr v s = s.logEvent ⟨.write, k, addr, v⟩ := by
  simp only [busWrite, h]

/-- A write changes plain memory and the event record alone. -/
theorem busWrite_frame (addr : Word) (v : Byte) (s : State) :
    busWrite addr v s =
      { s with mem := (busWrite addr v s).mem, events := (busWrite addr v s).events } := by
  unfold busWrite
  split <;> rfl

@[simp] theorem busWrite_pc (addr : Word) (v : Byte) (s : State) : (busWrite addr v s).pc = s.pc := by
  rw [busWrite_frame]
@[simp] theorem busWrite_a (addr : Word) (v : Byte) (s : State) : (busWrite addr v s).a = s.a := by
  rw [busWrite_frame]
@[simp] theorem busWrite_x (addr : Word) (v : Byte) (s : State) : (busWrite addr v s).x = s.x := by
  rw [busWrite_frame]
@[simp] theorem busWrite_y (addr : Word) (v : Byte) (s : State) : (busWrite addr v s).y = s.y := by
  rw [busWrite_frame]
@[simp] theorem busWrite_sp (addr : Word) (v : Byte) (s : State) : (busWrite addr v s).sp = s.sp := by
  rw [busWrite_frame]
@[simp] theorem busWrite_flags (addr : Word) (v : Byte) (s : State) : (busWrite addr v s).flags = s.flags := by
  rw [busWrite_frame]
@[simp] theorem busWrite_config (addr : Word) (v : Byte) (s : State) : (busWrite addr v s).config = s.config := by
  rw [busWrite_frame]
@[simp] theorem busWrite_halted (addr : Word) (v : Byte) (s : State) : (busWrite addr v s).halted = s.halted := by
  rw [busWrite_frame]

/-- A write from a state with other flags stores or records the same. -/
theorem busWrite_setFlags (addr : Word) (v : Byte) (s : State) (f : Flags) :
    busWrite addr v (s.setFlags f) = (busWrite addr v s).setFlags f := by
  cases h : overlayAt s.config.overlays addr with
  | none => rw [busWrite_plain (s := s) h, busWrite_plain (by exact h)]; rfl
  | some k => rw [busWrite_overlay (s := s) h, busWrite_overlay (k := k) (by exact h)]; rfl

/-- A write keeps the canonical form of plain memory. -/
@[simp] theorem busWrite_memWf (addr : Word) (v : Byte) (s : State) (h : s.mem.wf = true) :
    (busWrite addr v s).mem.wf = true := by
  unfold busWrite
  split
  · exact h
  · exact Memory.wf_write h addr.isLt v

/-- A fetch moves PC by one and changes, beside it, the event record alone. -/
theorem fetchByte_frame (s : State) :
    (fetchByte s).2 = { s with pc := s.pc + 1, events := (busRead s.pc s).2.events } := by
  simp only [fetchByte, State.setPc]
  rw [busRead_frame]

/-- A push changes S, plain memory and the event record alone. -/
theorem push_frame (v : Byte) (s : State) :
    push v s = { s with sp := s.sp - 1, mem := (push v s).mem, events := (push v s).events } := by
  simp only [push, State.setSp]
  rw [busWrite_frame]

@[simp] theorem push_pc (v : Byte) (s : State) : (push v s).pc = s.pc := by
  rw [push_frame]
@[simp] theorem push_a (v : Byte) (s : State) : (push v s).a = s.a := by
  rw [push_frame]
@[simp] theorem push_x (v : Byte) (s : State) : (push v s).x = s.x := by
  rw [push_frame]
@[simp] theorem push_y (v : Byte) (s : State) : (push v s).y = s.y := by
  rw [push_frame]
@[simp] theorem push_flags (v : Byte) (s : State) : (push v s).flags = s.flags := by
  rw [push_frame]
@[simp] theorem push_config (v : Byte) (s : State) : (push v s).config = s.config := by
  rw [push_frame]
@[simp] theorem push_halted (v : Byte) (s : State) : (push v s).halted = s.halted := by
  rw [push_frame]

@[simp] theorem push_sp (v : Byte) (s : State) : (push v s).sp = s.sp - 1 := rfl

@[simp] theorem push_memWf (v : Byte) (s : State) (h : s.mem.wf = true) : (push v s).mem.wf = true := by
  simp [push, h]

/-- A word push changes S, plain memory and the event record alone. -/
theorem push16_frame (w : Word) (s : State) :
    push16 w s = { s with sp := s.sp - 1 - 1, mem := (push16 w s).mem, events := (push16 w s).events } := by
  simp only [push16]
  rw [push_frame (loByte w), push_frame (hiByte w)]

@[simp] theorem push16_pc (w : Word) (s : State) : (push16 w s).pc = s.pc := by
  rw [push16_frame]
@[simp] theorem push16_a (w : Word) (s : State) : (push16 w s).a = s.a := by
  rw [push16_frame]
@[simp] theorem push16_x (w : Word) (s : State) : (push16 w s).x = s.x := by
  rw [push16_frame]
@[simp] theorem push16_y (w : Word) (s : State) : (push16 w s).y = s.y := by
  rw [push16_frame]
@[simp] theorem push16_flags (w : Word) (s : State) : (push16 w s).flags = s.flags := by
  rw [push16_frame]
@[simp] theorem push16_config (w : Word) (s : State) : (push16 w s).config = s.config := by
  rw [push16_frame]
@[simp] theorem push16_halted (w : Word) (s : State) : (push16 w s).halted = s.halted := by
  rw [push16_frame]

@[simp] theorem push16_sp (w : Word) (s : State) : (push16 w s).sp = s.sp - 1 - 1 := rfl

@[simp] theorem push16_memWf (w : Word) (s : State) (h : s.mem.wf = true) : (push16 w s).mem.wf = true := by
  simp [push16, h]

/-- A pull changes S and the event record alone. -/
theorem pull_frame (s : State) :
    (pull s).2 = { s with sp := s.sp + 1, events := (pull s).2.events } := by
  simp only [pull, State.setSp]
  rw [busRead_frame]

@[simp] theorem pull_pc (s : State) : (pull s).2.pc = s.pc := by
  rw [pull_frame]
@[simp] theorem pull_a (s : State) : (pull s).2.a = s.a := by
  rw [pull_frame]
@[simp] theorem pull_x (s : State) : (pull s).2.x = s.x := by
  rw [pull_frame]
@[simp] theorem pull_y (s : State) : (pull s).2.y = s.y := by
  rw [pull_frame]
@[simp] theorem pull_flags (s : State) : (pull s).2.flags = s.flags := by
  rw [pull_frame]
@[simp] theorem pull_mem (s : State) : (pull s).2.mem = s.mem := by
  rw [pull_frame]
@[simp] theorem pull_config (s : State) : (pull s).2.config = s.config := by
  rw [pull_frame]
@[simp] theorem pull_halted (s : State) : (pull s).2.halted = s.halted := by
  rw [pull_frame]

@[simp] theorem pull_sp (s : State) : (pull s).2.sp = s.sp + 1 := by
  rw [pull_frame]

/-- A word pull changes S and the event record alone. -/
theorem pull16_frame (s : State) :
    (pull16 s).2 = { s with sp := s.sp + 1 + 1, events := (pull16 s).2.events } := by
  simp only [pull16]
  rw [pull_frame (pull s).2, pull_frame s]

@[simp] theorem pull16_pc (s : State) : (pull16 s).2.pc = s.pc := by
  rw [pull16_frame]
@[simp] theorem pull16_a (s : State) : (pull16 s).2.a = s.a := by
  rw [pull16_frame]
@[simp] theorem pull16_x (s : State) : (pull16 s).2.x = s.x := by
  rw [pull16_frame]
@[simp] theorem pull16_y (s : State) : (pull16 s).2.y = s.y := by
  rw [pull16_frame]
@[simp] theorem pull16_flags (s : State) : (pull16 s).2.flags = s.flags := by
  rw [pull16_frame]
@[simp] theorem pull16_mem (s : State) : (pull16 s).2.mem = s.mem := by
  rw [pull16_frame]
@[simp] theorem pull16_config (s : State) : (pull16 s).2.config = s.config := by
  rw [pull16_frame]
@[simp] theorem pull16_halted (s : State) : (pull16 s).2.halted = s.halted := by
  rw [pull16_frame]

@[simp] theorem pull16_sp (s : State) : (pull16 s).2.sp = s.sp + 1 + 1 := by
  rw [pull16_frame]

@[simp] theorem loadA_pc (v : Byte) (s : State) : (loadA v s).pc = s.pc := rfl
@[simp] theorem loadA_a (v : Byte) (s : State) : (loadA v s).a = v := rfl
@[simp] theorem loadA_x (v : Byte) (s : State) : (loadA v s).x = s.x := rfl
@[simp] theorem loadA_y (v : Byte) (s : State) : (loadA v s).y = s.y := rfl
@[simp] theorem loadA_sp (v : Byte) (s : State) : (loadA v s).sp = s.sp := rfl
@[simp] theorem loadA_mem (v : Byte) (s : State) : (loadA v s).mem = s.mem := rfl
@[simp] theorem loadA_config (v : Byte) (s : State) : (loadA v s).config = s.config := rfl
@[simp] theorem loadA_events (v : Byte) (s : State) : (loadA v s).events = s.events := rfl
@[simp] theorem loadA_halted (v : Byte) (s : State) : (loadA v s).halted = s.halted := rfl
@[simp] theorem loadA_flags (v : Byte) (s : State) : (loadA v s).flags = setZN v s.flags := rfl

@[simp] theorem loadX_pc (v : Byte) (s : State) : (loadX v s).pc = s.pc := rfl
@[simp] theorem loadX_a (v : Byte) (s : State) : (loadX v s).a = s.a := rfl
@[simp] theorem loadX_x (v : Byte) (s : State) : (loadX v s).x = v := rfl
@[simp] theorem loadX_y (v : Byte) (s : State) : (loadX v s).y = s.y := rfl
@[simp] theorem loadX_sp (v : Byte) (s : State) : (loadX v s).sp = s.sp := rfl
@[simp] theorem loadX_mem (v : Byte) (s : State) : (loadX v s).mem = s.mem := rfl
@[simp] theorem loadX_config (v : Byte) (s : State) : (loadX v s).config = s.config := rfl
@[simp] theorem loadX_events (v : Byte) (s : State) : (loadX v s).events = s.events := rfl
@[simp] theorem loadX_halted (v : Byte) (s : State) : (loadX v s).halted = s.halted := rfl
@[simp] theorem loadX_flags (v : Byte) (s : State) : (loadX v s).flags = setZN v s.flags := rfl

@[simp] theorem loadY_pc (v : Byte) (s : State) : (loadY v s).pc = s.pc := rfl
@[simp] theorem loadY_a (v : Byte) (s : State) : (loadY v s).a = s.a := rfl
@[simp] theorem loadY_x (v : Byte) (s : State) : (loadY v s).x = s.x := rfl
@[simp] theorem loadY_y (v : Byte) (s : State) : (loadY v s).y = v := rfl
@[simp] theorem loadY_sp (v : Byte) (s : State) : (loadY v s).sp = s.sp := rfl
@[simp] theorem loadY_mem (v : Byte) (s : State) : (loadY v s).mem = s.mem := rfl
@[simp] theorem loadY_config (v : Byte) (s : State) : (loadY v s).config = s.config := rfl
@[simp] theorem loadY_events (v : Byte) (s : State) : (loadY v s).events = s.events := rfl
@[simp] theorem loadY_halted (v : Byte) (s : State) : (loadY v s).halted = s.halted := rfl
@[simp] theorem loadY_flags (v : Byte) (s : State) : (loadY v s).flags = setZN v s.flags := rfl

end Sys2Proof.Machine
end

