-- ==== Sys2Proof/Laws/Decode.lean ====
section
/-! SUPPORT. Laws.Decode: the byte-order helpers, and how the three opcode tables (matrix, encodings, operand modes) agree. -/

namespace Sys2Proof

theorem wordLE_toNat (lo hi : Byte) : (wordLE lo hi).toNat = lo.toNat + 256 * hi.toNat := by
  rw [wordLE, BitVec.toNat_append, ← Nat.shiftLeft_add_eq_or_of_lt lo.isLt, Nat.shiftLeft_eq]
  omega

theorem loByte_toNat (w : Word) : (loByte w).toNat = w.toNat % 256 := by
  simp [loByte]

theorem hiByte_toNat (w : Word) : (hiByte w).toNat = w.toNat / 256 := by
  have := w.isLt
  simp [hiByte, Nat.shiftRight_eq_div_pow]
  omega

@[simp] theorem loByte_wordLE (lo hi : Byte) : loByte (wordLE lo hi) = lo := by
  have := lo.isLt
  apply BitVec.eq_of_toNat_eq
  rw [loByte_toNat, wordLE_toNat]
  omega

@[simp] theorem hiByte_wordLE (lo hi : Byte) : hiByte (wordLE lo hi) = hi := by
  have := lo.isLt
  apply BitVec.eq_of_toNat_eq
  rw [hiByte_toNat, wordLE_toNat]
  omega

@[simp] theorem wordLE_bytes (w : Word) : wordLE (loByte w) (hiByte w) = w := by
  apply BitVec.eq_of_toNat_eq
  rw [wordLE_toNat, loByte_toNat, hiByte_toNat]
  omega

/-- The matrix has no row for an undocumented byte. -/
theorem opcode_of_undocumented {op : Byte} (h : undocumentedBytes.contains op = true) :
    opcode op = (.undoc, .implicit) := by
  have all : (undocumentedBytes.all fun op => opcode op == (.undoc, .implicit)) = true := by decide +kernel
  exact beq_iff_eq.mp (List.all_eq_true.mp all op (List.contains_iff_mem.mp h))

/-- What the three tables say together of one opcode byte. -/
def tablesAgreeAt (op : Byte) : Bool :=
  match opcode op with
  | (.undoc, mode) => mode == .implicit && undocumentedBytes.contains op
  | (m, mode) => m.operandModes.contains mode && m.opcodeByte mode == some op

/-- The three tables agree at every opcode byte. -/
theorem tables_agree (op : Byte) : tablesAgreeAt op = true := by
  have all : ((List.range 256).all fun n => tablesAgreeAt (BitVec.ofNat 8 n)) = true := by decide +kernel
  simpa using List.all_eq_true.mp all op.toNat (List.mem_range.mpr op.isLt)

/-- A byte of a mnemonic's encodings is that mnemonic and mode in the matrix. -/
theorem opcode_of_encodings {m : Mnemonic} {e : Mode × Byte} (h : e ∈ m.encodings) : opcode e.2 = (m, e.1) := by
  have all : (m.encodings.all fun e => opcode e.2 == (m, e.1)) = true := by cases m <;> decide +kernel
  exact beq_iff_eq.mp (List.all_eq_true.mp all e h)

theorem opcode_of_opcodeByte {m : Mnemonic} {mode : Mode} {op : Byte} (h : m.opcodeByte mode = some op) :
    opcode op = (m, mode) := by
  obtain ⟨e, he, rfl⟩ := Option.map_eq_some_iff.mp h
  have hm : e.1 = mode := by simpa using List.find?_some he
  rw [opcode_of_encodings (List.mem_of_find?_eq_some he), hm]

/-- Every mode a family rule gives a mnemonic has an opcode byte. -/
theorem opcodeByte_of_operandModes {m : Mnemonic} {mode : Mode} (hm : m ≠ .undoc)
    (h : m.operandModes.contains mode = true) : ∃ op, m.opcodeByte mode = some op := by
  have all : ∀ m : Mnemonic, m ≠ .undoc → (m.operandModes.all fun mode => (m.opcodeByte mode).isSome) = true := by
    intro m; cases m <;> decide
  exact Option.isSome_iff_exists.mp (List.all_eq_true.mp (all m hm) mode (List.contains_iff_mem.mp h))

@[simp] theorem Operand.ofBytes_mode (mode : Mode) (b1 b2 : Byte) : (Operand.ofBytes mode b1 b2).mode = mode := by
  cases mode <;> rfl

end Sys2Proof
end

