-- ==== Sys2Proof/Laws/Operands.lean ====
section
/-! SUPPORT. Laws.Operands: what fetching an operand, computing its address and using it can do. Fetching changes PC and the
event record alone, address computation and reads the event record alone. -/

namespace Sys2Proof.Machine

/-- Fetching operand bytes moves PC past them and changes, beside it, the event record alone. -/
theorem fetchOperandBytes_frame (n : Nat) (s : State) :
    (fetchOperandBytes n s).2 =
      { s with pc := (fetchOperandBytes n s).2.pc, events := (fetchOperandBytes n s).2.events } := by
  match n with
  | 0 => rfl
  | 1 => simp only [fetchOperandBytes]; rw [fetchByte_frame]
  | n + 2 => simp only [fetchOperandBytes]; rw [fetchByte_frame, fetchByte_frame]

/-- Fetching an operand moves PC past its bytes. -/
theorem fetchOperandBytes_pc (mode : Mode) (s : State) :
    (fetchOperandBytes mode.operandLength s).2.pc = s.pc + BitVec.ofNat 16 mode.operandLength := by
  cases mode <;> simp [fetchOperandBytes, Mode.operandLength, fetchByte, BitVec.add_assoc]

/-- Address computation changes the event record alone (pointer reads). -/
theorem effAddr_frame (o : Operand) (s : State) :
    (effAddr o s).2 = { s with events := (effAddr o s).2.events } := by
  cases o <;> simp only [effAddr] <;> rw [busRead16_frame]

@[simp] theorem effAddr_pc (o : Operand) (s : State) : (effAddr o s).2.pc = s.pc := by
  rw [effAddr_frame]
@[simp] theorem effAddr_a (o : Operand) (s : State) : (effAddr o s).2.a = s.a := by
  rw [effAddr_frame]
@[simp] theorem effAddr_x (o : Operand) (s : State) : (effAddr o s).2.x = s.x := by
  rw [effAddr_frame]
@[simp] theorem effAddr_y (o : Operand) (s : State) : (effAddr o s).2.y = s.y := by
  rw [effAddr_frame]
@[simp] theorem effAddr_sp (o : Operand) (s : State) : (effAddr o s).2.sp = s.sp := by
  rw [effAddr_frame]
@[simp] theorem effAddr_flags (o : Operand) (s : State) : (effAddr o s).2.flags = s.flags := by
  rw [effAddr_frame]
@[simp] theorem effAddr_mem (o : Operand) (s : State) : (effAddr o s).2.mem = s.mem := by
  rw [effAddr_frame]
@[simp] theorem effAddr_config (o : Operand) (s : State) : (effAddr o s).2.config = s.config := by
  rw [effAddr_frame]
@[simp] theorem effAddr_halted (o : Operand) (s : State) : (effAddr o s).2.halted = s.halted := by
  rw [effAddr_frame]

/-- Reading at an effective address changes the event record alone. -/
theorem loadEa_frame (ea : Option Word) (s : State) :
    (loadEa ea s).2 = { s with events := (loadEa ea s).2.events } := by
  cases ea with
  | none => rfl
  | some addr => exact busRead_frame addr s

@[simp] theorem loadEa_pc (ea : Option Word) (s : State) : (loadEa ea s).2.pc = s.pc := by
  rw [loadEa_frame]
@[simp] theorem loadEa_a (ea : Option Word) (s : State) : (loadEa ea s).2.a = s.a := by
  rw [loadEa_frame]
@[simp] theorem loadEa_x (ea : Option Word) (s : State) : (loadEa ea s).2.x = s.x := by
  rw [loadEa_frame]
@[simp] theorem loadEa_y (ea : Option Word) (s : State) : (loadEa ea s).2.y = s.y := by
  rw [loadEa_frame]
@[simp] theorem loadEa_sp (ea : Option Word) (s : State) : (loadEa ea s).2.sp = s.sp := by
  rw [loadEa_frame]
@[simp] theorem loadEa_flags (ea : Option Word) (s : State) : (loadEa ea s).2.flags = s.flags := by
  rw [loadEa_frame]
@[simp] theorem loadEa_mem (ea : Option Word) (s : State) : (loadEa ea s).2.mem = s.mem := by
  rw [loadEa_frame]
@[simp] theorem loadEa_config (ea : Option Word) (s : State) : (loadEa ea s).2.config = s.config := by
  rw [loadEa_frame]
@[simp] theorem loadEa_halted (ea : Option Word) (s : State) : (loadEa ea s).2.halted = s.halted := by
  rw [loadEa_frame]

/-- Reading through an operand changes the event record alone. -/
theorem loadOperand_frame (o : Operand) (s : State) :
    (loadOperand o s).2 = { s with events := (loadOperand o s).2.events } := by
  unfold loadOperand
  split
  · rfl
  · rw [loadEa_frame, effAddr_frame]

@[simp] theorem loadOperand_pc (o : Operand) (s : State) : (loadOperand o s).2.pc = s.pc := by
  rw [loadOperand_frame]
@[simp] theorem loadOperand_a (o : Operand) (s : State) : (loadOperand o s).2.a = s.a := by
  rw [loadOperand_frame]
@[simp] theorem loadOperand_x (o : Operand) (s : State) : (loadOperand o s).2.x = s.x := by
  rw [loadOperand_frame]
@[simp] theorem loadOperand_y (o : Operand) (s : State) : (loadOperand o s).2.y = s.y := by
  rw [loadOperand_frame]
@[simp] theorem loadOperand_sp (o : Operand) (s : State) : (loadOperand o s).2.sp = s.sp := by
  rw [loadOperand_frame]
@[simp] theorem loadOperand_flags (o : Operand) (s : State) : (loadOperand o s).2.flags = s.flags := by
  rw [loadOperand_frame]
@[simp] theorem loadOperand_mem (o : Operand) (s : State) : (loadOperand o s).2.mem = s.mem := by
  rw [loadOperand_frame]
@[simp] theorem loadOperand_config (o : Operand) (s : State) : (loadOperand o s).2.config = s.config := by
  rw [loadOperand_frame]
@[simp] theorem loadOperand_halted (o : Operand) (s : State) : (loadOperand o s).2.halted = s.halted := by
  rw [loadOperand_frame]

/-- Writing at an effective address changes plain memory and the event record, or A when there is no address. -/
theorem storeEa_frame (ea : Option Word) (r : Byte) (s : State) :
    storeEa ea r s =
      { s with
        a := (storeEa ea r s).a, mem := (storeEa ea r s).mem, events := (storeEa ea r s).events } := by
  cases ea with
  | none => rfl
  | some addr => simp only [storeEa]; rw [busWrite_frame]

@[simp] theorem storeEa_pc (ea : Option Word) (r : Byte) (s : State) : (storeEa ea r s).pc = s.pc := by
  rw [storeEa_frame]
@[simp] theorem storeEa_x (ea : Option Word) (r : Byte) (s : State) : (storeEa ea r s).x = s.x := by
  rw [storeEa_frame]
@[simp] theorem storeEa_y (ea : Option Word) (r : Byte) (s : State) : (storeEa ea r s).y = s.y := by
  rw [storeEa_frame]
@[simp] theorem storeEa_sp (ea : Option Word) (r : Byte) (s : State) : (storeEa ea r s).sp = s.sp := by
  rw [storeEa_frame]
@[simp] theorem storeEa_flags (ea : Option Word) (r : Byte) (s : State) : (storeEa ea r s).flags = s.flags := by
  rw [storeEa_frame]
@[simp] theorem storeEa_config (ea : Option Word) (r : Byte) (s : State) : (storeEa ea r s).config = s.config := by
  rw [storeEa_frame]
@[simp] theorem storeEa_halted (ea : Option Word) (r : Byte) (s : State) : (storeEa ea r s).halted = s.halted := by
  rw [storeEa_frame]

@[simp] theorem storeEa_none (r : Byte) (s : State) : storeEa none r s = s.setA r := rfl

@[simp] theorem storeEa_some (addr : Word) (r : Byte) (s : State) : storeEa (some addr) r s = busWrite addr r s := rfl

@[simp] theorem storeEa_memWf (ea : Option Word) (r : Byte) (s : State) (h : s.mem.wf = true) :
    (storeEa ea r s).mem.wf = true := by
  cases ea <;> simp [h]

/-- Addresses do not depend on the flags. -/
theorem effAddr_setFlags (o : Operand) (s : State) (f : Flags) :
    effAddr o (s.setFlags f) = ((effAddr o s).1, (effAddr o s).2.setFlags f) := by
  cases o <;> simp [effAddr, busRead16, busRead_setFlags]

theorem loadEa_setFlags (ea : Option Word) (s : State) (f : Flags) :
    loadEa ea (s.setFlags f) = ((loadEa ea s).1, (loadEa ea s).2.setFlags f) := by
  cases ea with
  | none => rfl
  | some addr => exact busRead_setFlags addr s f

theorem storeEa_setFlags (ea : Option Word) (r : Byte) (s : State) (f : Flags) :
    storeEa ea r (s.setFlags f) = (storeEa ea r s).setFlags f := by
  cases ea with
  | none => rfl
  | some addr => exact busWrite_setFlags addr r s f

/-- Writing through an operand changes plain memory, the event record and A alone. -/
theorem storeOperand_frame (o : Operand) (v : Byte) (s : State) :
    storeOperand o v s =
      { s with
        a := (storeOperand o v s).a, mem := (storeOperand o v s).mem, events := (storeOperand o v s).events } := by
  simp only [storeOperand]
  rw [storeEa_frame, effAddr_frame]

@[simp] theorem storeOperand_pc (o : Operand) (v : Byte) (s : State) : (storeOperand o v s).pc = s.pc := by
  rw [storeOperand_frame]
@[simp] theorem storeOperand_x (o : Operand) (v : Byte) (s : State) : (storeOperand o v s).x = s.x := by
  rw [storeOperand_frame]
@[simp] theorem storeOperand_y (o : Operand) (v : Byte) (s : State) : (storeOperand o v s).y = s.y := by
  rw [storeOperand_frame]
@[simp] theorem storeOperand_sp (o : Operand) (v : Byte) (s : State) : (storeOperand o v s).sp = s.sp := by
  rw [storeOperand_frame]
@[simp] theorem storeOperand_flags (o : Operand) (v : Byte) (s : State) : (storeOperand o v s).flags = s.flags := by
  rw [storeOperand_frame]
@[simp] theorem storeOperand_config (o : Operand) (v : Byte) (s : State) : (storeOperand o v s).config = s.config := by
  rw [storeOperand_frame]
@[simp] theorem storeOperand_halted (o : Operand) (v : Byte) (s : State) : (storeOperand o v s).halted = s.halted := by
  rw [storeOperand_frame]

@[simp] theorem storeOperand_memWf (o : Operand) (v : Byte) (s : State) (h : s.mem.wf = true) :
    (storeOperand o v s).mem.wf = true := by
  simp [storeOperand, h]

/-- A read-modify-write changes plain memory, the event record, A and the flags alone. -/
theorem modifyOperand_frame (o : Operand) (res : Byte → Byte) (fl : Byte → Flags → Flags) (s : State) :
    modifyOperand o res fl s =
      { s with
        a := (modifyOperand o res fl s).a, flags := (modifyOperand o res fl s).flags,
        mem := (modifyOperand o res fl s).mem, events := (modifyOperand o res fl s).events } := by
  simp only [modifyOperand, State.setFlags]
  rw [storeEa_frame, loadEa_frame, effAddr_frame]

@[simp] theorem modifyOperand_pc (o : Operand) (res : Byte → Byte) (fl : Byte → Flags → Flags) (s : State) : (modifyOperand o res fl s).pc = s.pc := by
  rw [modifyOperand_frame]
@[simp] theorem modifyOperand_x (o : Operand) (res : Byte → Byte) (fl : Byte → Flags → Flags) (s : State) : (modifyOperand o res fl s).x = s.x := by
  rw [modifyOperand_frame]
@[simp] theorem modifyOperand_y (o : Operand) (res : Byte → Byte) (fl : Byte → Flags → Flags) (s : State) : (modifyOperand o res fl s).y = s.y := by
  rw [modifyOperand_frame]
@[simp] theorem modifyOperand_sp (o : Operand) (res : Byte → Byte) (fl : Byte → Flags → Flags) (s : State) : (modifyOperand o res fl s).sp = s.sp := by
  rw [modifyOperand_frame]
@[simp] theorem modifyOperand_config (o : Operand) (res : Byte → Byte) (fl : Byte → Flags → Flags) (s : State) : (modifyOperand o res fl s).config = s.config := by
  rw [modifyOperand_frame]
@[simp] theorem modifyOperand_halted (o : Operand) (res : Byte → Byte) (fl : Byte → Flags → Flags) (s : State) : (modifyOperand o res fl s).halted = s.halted := by
  rw [modifyOperand_frame]

@[simp] theorem modifyOperand_memWf (o : Operand) (res : Byte → Byte) (fl : Byte → Flags → Flags) (s : State)
    (h : s.mem.wf = true) : (modifyOperand o res fl s).mem.wf = true := by
  simp [modifyOperand, h]

/-- A jump changes PC and the event record alone. -/
theorem jumpTo_frame (o : Operand) (s : State) :
    jumpTo o s = { s with pc := (jumpTo o s).pc, events := (jumpTo o s).events } := by
  cases o <;> simp only [jumpTo, effAddr, State.setPc] <;> try rw [busRead16_frame]

@[simp] theorem jumpTo_a (o : Operand) (s : State) : (jumpTo o s).a = s.a := by
  rw [jumpTo_frame]
@[simp] theorem jumpTo_x (o : Operand) (s : State) : (jumpTo o s).x = s.x := by
  rw [jumpTo_frame]
@[simp] theorem jumpTo_y (o : Operand) (s : State) : (jumpTo o s).y = s.y := by
  rw [jumpTo_frame]
@[simp] theorem jumpTo_sp (o : Operand) (s : State) : (jumpTo o s).sp = s.sp := by
  rw [jumpTo_frame]
@[simp] theorem jumpTo_flags (o : Operand) (s : State) : (jumpTo o s).flags = s.flags := by
  rw [jumpTo_frame]
@[simp] theorem jumpTo_mem (o : Operand) (s : State) : (jumpTo o s).mem = s.mem := by
  rw [jumpTo_frame]
@[simp] theorem jumpTo_config (o : Operand) (s : State) : (jumpTo o s).config = s.config := by
  rw [jumpTo_frame]
@[simp] theorem jumpTo_halted (o : Operand) (s : State) : (jumpTo o s).halted = s.halted := by
  rw [jumpTo_frame]

/-- A branch changes PC alone: to the target when taken, not at all otherwise. -/
theorem branchIf_eq (cond : Bool) (off : Byte) (s : State) :
    branchIf cond off s = if cond then s.setPc (s.pc + sext16 off) else s := rfl

/-- The interrupt entry changes PC, S, the flags, plain memory and the event record alone. -/
theorem enterInterrupt_frame (ret : Word) (s : State) :
    enterInterrupt ret s =
      { s with
        pc := (enterInterrupt ret s).pc, sp := s.sp - 1 - 1 - 1, flags := { s.flags with i := true },
        mem := (enterInterrupt ret s).mem, events := (enterInterrupt ret s).events } := by
  simp only [enterInterrupt, State.setPc, State.setFlags]
  rw [busRead16_frame, push_frame, push16_frame]

@[simp] theorem enterInterrupt_memWf (ret : Word) (s : State) (h : s.mem.wf = true) :
    (enterInterrupt ret s).mem.wf = true := by
  simp [enterInterrupt, h]

/-- The interrupt return changes PC, S, the flags and the event record alone; the flags are the pulled byte's. -/
theorem returnFromInterrupt_frame (s : State) :
    returnFromInterrupt s =
      { s with
        pc := (returnFromInterrupt s).pc, sp := s.sp + 1 + 1 + 1, flags := unpackP (pull s).1,
        events := (returnFromInterrupt s).events } := by
  simp only [returnFromInterrupt, State.setPc, State.setFlags]
  rw [pull16_frame]
  simp only [pull_sp]
  rw [pull_frame]

/-- The reset load changes PC and the event record alone. -/
theorem resetLoad_frame (s : State) :
    resetLoad s = { s with pc := (resetLoad s).pc, events := (resetLoad s).events } := by
  simp only [resetLoad, State.setPc]
  rw [busRead16_frame]

/-- The resolver changes PC and the event record alone. -/
theorem resolve_frame (mode : Mode) (s : State) :
    (resolve mode s).2 = { s with pc := (resolve mode s).2.pc, events := (resolve mode s).2.events } := by
  cases mode <;> try rfl
  all_goals
    simp only [resolve, fetchOperand]
    rw [effAddr_frame, fetchOperandBytes_frame]

@[simp] theorem resolve_a (mode : Mode) (s : State) : (resolve mode s).2.a = s.a := by
  rw [resolve_frame]
@[simp] theorem resolve_x (mode : Mode) (s : State) : (resolve mode s).2.x = s.x := by
  rw [resolve_frame]
@[simp] theorem resolve_y (mode : Mode) (s : State) : (resolve mode s).2.y = s.y := by
  rw [resolve_frame]
@[simp] theorem resolve_sp (mode : Mode) (s : State) : (resolve mode s).2.sp = s.sp := by
  rw [resolve_frame]
@[simp] theorem resolve_flags (mode : Mode) (s : State) : (resolve mode s).2.flags = s.flags := by
  rw [resolve_frame]
@[simp] theorem resolve_mem (mode : Mode) (s : State) : (resolve mode s).2.mem = s.mem := by
  rw [resolve_frame]
@[simp] theorem resolve_config (mode : Mode) (s : State) : (resolve mode s).2.config = s.config := by
  rw [resolve_frame]
@[simp] theorem resolve_halted (mode : Mode) (s : State) : (resolve mode s).2.halted = s.halted := by
  rw [resolve_frame]

/-- Fetching an instruction changes PC and the event record alone. -/
theorem fetchInstr_frame (s : State) :
    (fetchInstr s).2 = { s with pc := (fetchInstr s).2.pc, events := (fetchInstr s).2.events } := by
  simp only [fetchInstr]
  rw [fetchOperandBytes_frame, fetchByte_frame]

end Sys2Proof.Machine
end

