-- ==== Sys2Proof/Laws/Invariant.lean ====
section
/-! SUPPORT. Laws.Invariant: every shared operation keeps the invariant of the machine. -/

namespace Sys2Proof.Machine

/-- The invariant looks at plain memory, the parameters and the event record alone. -/
theorem State.inv_congr {s t : State} (hm : t.mem = s.mem) (hc : t.config = s.config) (he : t.events = s.events) :
    t.inv ↔ s.inv := by
  simp only [State.inv, State.eventsResolved, hm, hc, he]

@[simp] theorem State.setPc_inv (s : State) (v : Word) : (s.setPc v).inv ↔ s.inv := State.inv_congr rfl rfl rfl
@[simp] theorem State.setA_inv (s : State) (v : Byte) : (s.setA v).inv ↔ s.inv := State.inv_congr rfl rfl rfl
@[simp] theorem State.setX_inv (s : State) (v : Byte) : (s.setX v).inv ↔ s.inv := State.inv_congr rfl rfl rfl
@[simp] theorem State.setY_inv (s : State) (v : Byte) : (s.setY v).inv ↔ s.inv := State.inv_congr rfl rfl rfl
@[simp] theorem State.setSp_inv (s : State) (v : Byte) : (s.setSp v).inv ↔ s.inv := State.inv_congr rfl rfl rfl
@[simp] theorem State.setFlags_inv (s : State) (f : Flags) : (s.setFlags f).inv ↔ s.inv := State.inv_congr rfl rfl rfl
@[simp] theorem State.halt_inv (s : State) : s.halt.inv ↔ s.inv := State.inv_congr rfl rfl rfl

/-- Recording an access its overlay takes keeps the invariant. -/
theorem State.logEvent_inv {s : State} {e : OverlayEvent} (h : s.inv)
    (he : overlayAt s.config.overlays e.address = some e.overlay) : (s.logEvent e).inv := by
  refine ⟨h.1, fun e' he' => ?_⟩
  rcases List.mem_append.mp he' with h' | h'
  · exact h.2 e' h'
  · obtain rfl := List.mem_singleton.mp h'
    exact he

theorem busRead_inv {addr : Word} {s : State} (h : s.inv) : (busRead addr s).2.inv := by
  unfold busRead
  split
  · rename_i k hk
    exact State.logEvent_inv h hk
  · exact h

theorem busWrite_inv {addr : Word} {v : Byte} {s : State} (h : s.inv) : (busWrite addr v s).inv := by
  unfold busWrite
  split
  · rename_i k hk
    exact State.logEvent_inv h hk
  · exact ⟨Memory.wf_write h.1 addr.isLt v, h.2⟩

theorem busRead16_inv {addr : Word} {s : State} (h : s.inv) : (busRead16 addr s).2.inv := busRead_inv (busRead_inv h)

theorem fetchByte_inv {s : State} (h : s.inv) : (fetchByte s).2.inv := by
  simpa [fetchByte] using busRead_inv h

theorem push_inv {v : Byte} {s : State} (h : s.inv) : (push v s).inv := by
  simpa [push] using busWrite_inv h

theorem pull_inv {s : State} (h : s.inv) : (pull s).2.inv := busRead_inv (by simpa using h)

theorem push16_inv {w : Word} {s : State} (h : s.inv) : (push16 w s).inv := push_inv (push_inv h)

theorem pull16_inv {s : State} (h : s.inv) : (pull16 s).2.inv := pull_inv (pull_inv h)

@[simp] theorem loadA_inv (v : Byte) (s : State) : (loadA v s).inv ↔ s.inv := State.inv_congr rfl rfl rfl
@[simp] theorem loadX_inv (v : Byte) (s : State) : (loadX v s).inv ↔ s.inv := State.inv_congr rfl rfl rfl
@[simp] theorem loadY_inv (v : Byte) (s : State) : (loadY v s).inv ↔ s.inv := State.inv_congr rfl rfl rfl
@[simp] theorem haltProcessor_inv (s : State) : (haltProcessor s).inv ↔ s.inv := State.inv_congr rfl rfl rfl

theorem fetchOperandBytes_inv {n : Nat} {s : State} (h : s.inv) : (fetchOperandBytes n s).2.inv := by
  match n with
  | 0 => exact h
  | 1 => exact fetchByte_inv h
  | n + 2 => exact fetchByte_inv (fetchByte_inv h)

theorem effAddr_inv {o : Operand} {s : State} (h : s.inv) : (effAddr o s).2.inv := by
  cases o <;> first | exact h | exact busRead16_inv h

theorem loadEa_inv {ea : Option Word} {s : State} (h : s.inv) : (loadEa ea s).2.inv := by
  cases ea with
  | none => exact h
  | some addr => exact busRead_inv h

theorem storeEa_inv {ea : Option Word} {r : Byte} {s : State} (h : s.inv) : (storeEa ea r s).inv := by
  cases ea with
  | none => simpa using h
  | some addr => exact busWrite_inv h

theorem loadOperand_inv {o : Operand} {s : State} (h : s.inv) : (loadOperand o s).2.inv := by
  cases o <;> first | exact h | exact loadEa_inv (effAddr_inv h)

theorem storeOperand_inv {o : Operand} {v : Byte} {s : State} (h : s.inv) : (storeOperand o v s).inv :=
  storeEa_inv (effAddr_inv h)

theorem modifyOperand_inv {o : Operand} {res : Byte → Byte} {fl : Byte → Flags → Flags} {s : State} (h : s.inv) :
    (modifyOperand o res fl s).inv := by
  simpa [modifyOperand] using storeEa_inv (loadEa_inv (effAddr_inv h))

theorem jumpTo_inv {o : Operand} {s : State} (h : s.inv) : (jumpTo o s).inv := by
  cases o <;> simp only [jumpTo, effAddr, State.setPc_inv] <;> first | exact h | exact busRead16_inv h

theorem branchIf_inv {cond : Bool} {off : Byte} {s : State} (h : s.inv) : (branchIf cond off s).inv := by
  unfold branchIf
  split
  · exact jumpTo_inv h
  · exact h

theorem enterInterrupt_inv {ret : Word} {s : State} (h : s.inv) : (enterInterrupt ret s).inv := by
  simpa [enterInterrupt] using busRead16_inv (push_inv (push16_inv h))

theorem returnFromInterrupt_inv {s : State} (h : s.inv) : (returnFromInterrupt s).inv := by
  simpa [returnFromInterrupt] using pull16_inv (by simpa using pull_inv h)

theorem resetLoad_inv {s : State} (h : s.inv) : (resetLoad s).inv := by
  simpa [resetLoad] using busRead16_inv h

theorem resolve_inv {mode : Mode} {s : State} (h : s.inv) : (resolve mode s).2.inv := by
  cases mode <;> first | exact h | exact effAddr_inv (fetchOperandBytes_inv h)

theorem fetchInstr_inv {s : State} (h : s.inv) : (fetchInstr s).2.inv := fetchOperandBytes_inv (fetchByte_inv h)

end Sys2Proof.Machine
end

