-- ==== Sys2Proof/Laws/PerInstr.lean ====
section
/-! SUPPORT. Laws.PerInstr: the family EncodedLength, said of each constructor of Instr: a well-formed instruction encodes to
as many bytes as its mode's format has (spec/30_encoding.md R110). -/

namespace Sys2Proof.Laws.EncodedLength

/-- The encoding of a well-formed instruction is one opcode byte and the operand bytes of its mode. -/
def Statement (i : Instr) : Prop := i.wellFormed = true → (encode i).length = i.length

theorem lda (o : Operand) : Statement (.lda o) := by
  intro h; cases o <;> first | rfl | exact absurd h Bool.false_ne_true

theorem ldx (o : Operand) : Statement (.ldx o) := by
  intro h; cases o <;> first | rfl | exact absurd h Bool.false_ne_true

theorem ldy (o : Operand) : Statement (.ldy o) := by
  intro h; cases o <;> first | rfl | exact absurd h Bool.false_ne_true

theorem sta (o : Operand) : Statement (.sta o) := by
  intro h; cases o <;> first | rfl | exact absurd h Bool.false_ne_true

theorem stx (o : Operand) : Statement (.stx o) := by
  intro h; cases o <;> first | rfl | exact absurd h Bool.false_ne_true

theorem sty (o : Operand) : Statement (.sty o) := by
  intro h; cases o <;> first | rfl | exact absurd h Bool.false_ne_true

theorem adc (o : Operand) : Statement (.adc o) := by
  intro h; cases o <;> first | rfl | exact absurd h Bool.false_ne_true

theorem sbc (o : Operand) : Statement (.sbc o) := by
  intro h; cases o <;> first | rfl | exact absurd h Bool.false_ne_true

theorem and (o : Operand) : Statement (.and o) := by
  intro h; cases o <;> first | rfl | exact absurd h Bool.false_ne_true

theorem ora (o : Operand) : Statement (.ora o) := by
  intro h; cases o <;> first | rfl | exact absurd h Bool.false_ne_true

theorem eor (o : Operand) : Statement (.eor o) := by
  intro h; cases o <;> first | rfl | exact absurd h Bool.false_ne_true

theorem bit (o : Operand) : Statement (.bit o) := by
  intro h; cases o <;> first | rfl | exact absurd h Bool.false_ne_true

theorem asl (o : Operand) : Statement (.asl o) := by
  intro h; cases o <;> first | rfl | exact absurd h Bool.false_ne_true

theorem lsr (o : Operand) : Statement (.lsr o) := by
  intro h; cases o <;> first | rfl | exact absurd h Bool.false_ne_true

theorem rol (o : Operand) : Statement (.rol o) := by
  intro h; cases o <;> first | rfl | exact absurd h Bool.false_ne_true

theorem ror (o : Operand) : Statement (.ror o) := by
  intro h; cases o <;> first | rfl | exact absurd h Bool.false_ne_true

theorem cmp (o : Operand) : Statement (.cmp o) := by
  intro h; cases o <;> first | rfl | exact absurd h Bool.false_ne_true

theorem cpx (o : Operand) : Statement (.cpx o) := by
  intro h; cases o <;> first | rfl | exact absurd h Bool.false_ne_true

theorem cpy (o : Operand) : Statement (.cpy o) := by
  intro h; cases o <;> first | rfl | exact absurd h Bool.false_ne_true

theorem inc (o : Operand) : Statement (.inc o) := by
  intro h; cases o <;> first | rfl | exact absurd h Bool.false_ne_true

theorem dec (o : Operand) : Statement (.dec o) := by
  intro h; cases o <;> first | rfl | exact absurd h Bool.false_ne_true

theorem inx : Statement .inx := fun _ => rfl

theorem iny : Statement .iny := fun _ => rfl

theorem dex : Statement .dex := fun _ => rfl

theorem dey : Statement .dey := fun _ => rfl

theorem bcc (off : Byte) : Statement (.bcc off) := fun _ => rfl

theorem bcs (off : Byte) : Statement (.bcs off) := fun _ => rfl

theorem beq (off : Byte) : Statement (.beq off) := fun _ => rfl

theorem bne (off : Byte) : Statement (.bne off) := fun _ => rfl

theorem bmi (off : Byte) : Statement (.bmi off) := fun _ => rfl

theorem bpl (off : Byte) : Statement (.bpl off) := fun _ => rfl

theorem bvc (off : Byte) : Statement (.bvc off) := fun _ => rfl

theorem bvs (off : Byte) : Statement (.bvs off) := fun _ => rfl

theorem jmp (o : Operand) : Statement (.jmp o) := by
  intro h; cases o <;> first | rfl | exact absurd h Bool.false_ne_true

theorem pha : Statement .pha := fun _ => rfl

theorem pla : Statement .pla := fun _ => rfl

theorem php : Statement .php := fun _ => rfl

theorem plp : Statement .plp := fun _ => rfl

theorem jsr (target : Word) : Statement (.jsr target) := fun _ => rfl

theorem rts : Statement .rts := fun _ => rfl

theorem brk : Statement .brk := fun _ => rfl

theorem rti : Statement .rti := fun _ => rfl

theorem sec : Statement .sec := fun _ => rfl

theorem clc : Statement .clc := fun _ => rfl

theorem sei : Statement .sei := fun _ => rfl

theorem cli : Statement .cli := fun _ => rfl

theorem sed : Statement .sed := fun _ => rfl

theorem cld : Statement .cld := fun _ => rfl

theorem clv : Statement .clv := fun _ => rfl

theorem tax : Statement .tax := fun _ => rfl

theorem tay : Statement .tay := fun _ => rfl

theorem tsx : Statement .tsx := fun _ => rfl

theorem txa : Statement .txa := fun _ => rfl

theorem txs : Statement .txs := fun _ => rfl

theorem tya : Statement .tya := fun _ => rfl

theorem nop : Statement .nop := fun _ => rfl

theorem kil : Statement .kil := fun _ => rfl

theorem undoc (op : Byte) : Statement (.undoc op) := fun _ => rfl

end Sys2Proof.Laws.EncodedLength
end

