-- ==== Sys2Proof/Tests/Slice0.lean ====
section
/-! SUPPORT. Tests.Slice0: words written out from the spec's encodings, the well-formedness smoke, one step per test with the
values of spec/95_test_vectors.md (whose sections 2 and 3 are hand-derived by the spec), and a witness for the hypotheses of
every obligation that has some. -/

open Sys2Proof Sys2Proof.Machine

namespace Sys2Proof.Tests

set_option Elab.async false

/-- The power-on state with bytes placed at PC. -/
def placed (pc : Word) (bytes : List Byte) : State := { State.reset with pc := pc, mem := placeBytes bytes pc [] }

/-- The state with bytes poked into plain memory. -/
def poke (s : State) (cells : List (Nat × Byte)) : State :=
  { s with mem := cells.foldl (fun m c => m.write c.1 c.2) s.mem }

/-- A look at the state after one step. -/
def after {α : Type} (s : State) (look : State → α) : Option α := (nextOf (step s)).map look

/-- What a list of bytes decodes to, if it decodes to exactly one instruction. -/
def decodesTo (bytes : List Byte) (i : Instr) : Bool :=
  match decode bytes with
  | .ok (j, rest) => i == j && rest == []
  | .error _ => false

/-! Decoding: bytes from spec/30_encoding.md R116 (opcode bit by bit), operand bytes little-endian (R113). -/

theorem test_decode_loadStore : decodesTo [0b10111001, 0x34, 0x12] (.lda (.absY 0x1234)) = true ∧
    decodesTo [0b10110110, 0xFF] (.ldx (.zpY 0xFF)) = true ∧ decodesTo [0b10000001, 0x40] (.sta (.indX 0x40)) = true := by
  decide +kernel

theorem test_decode_arithLogic : decodesTo [0b01101001, 0x10] (.adc (.imm 0x10)) = true ∧
    decodesTo [0b11110001, 0x20] (.sbc (.indY 0x20)) = true ∧ decodesTo [0b00101100, 0x34, 0x12] (.bit (.abs 0x1234)) = true := by
  decide +kernel

theorem test_decode_shiftRotate : decodesTo [0b01001010] (.lsr .acc) = true ∧
    decodesTo [0b01111110, 0x00, 0x20] (.ror (.absX 0x2000)) = true ∧ decodesTo [0b00010110, 0x10] (.asl (.zpX 0x10)) = true := by
  decide +kernel

theorem test_decode_compareIncDec : decodesTo [0b11000000, 0x20] (.cpy (.imm 0x20)) = true ∧
    decodesTo [0b11000110, 0x10] (.dec (.zp 0x10)) = true ∧ decodesTo [0b11101000] .inx = true := by
  decide +kernel

theorem test_decode_branchJump : decodesTo [0b00010000, 0x80] (.bpl 0x80) = true ∧
    decodesTo [0b01101100, 0xFF, 0x10] (.jmp (.ind 0x10FF)) = true := by
  decide +kernel

theorem test_decode_stack : decodesTo [0b01001000] .pha = true ∧ decodesTo [0b00101000] .plp = true := by decide +kernel

theorem test_decode_subroutine : decodesTo [0b00100000, 0x10, 0x02] (.jsr 0x0210) = true ∧
    decodesTo [0b00000000] .brk = true ∧ decodesTo [0b01000000] .rti = true := by
  decide +kernel

theorem test_decode_flagsTransfer : decodesTo [0b10111000] .clv = true ∧ decodesTo [0b10011010] .txs = true ∧
    decodesTo [0b11101010] .nop = true := by
  decide +kernel

theorem test_decode_kilUndoc : decodesTo [0b00000010] .kil = true ∧ decodesTo [0b00010010] (.undoc 0x12) = true := by
  decide +kernel

/-- The two rejections of the decoder, by name. -/
theorem test_decode_rejects : (match decode [] with | .error .noOpcode => true | _ => false) = true ∧
    (match decode [0xAD, 0x34] with | .error (.missingOperand op) => op == 0xAD | _ => false) = true := by
  decide +kernel

/-! The host's two questions: a table word decodes, and runs as the first instruction. -/

theorem test_tableWord : decodeTableWord 8 0xAD = some (.lda (.abs 0x0000)) ∧
    decodeTableWord 24 0x1234AD = some (.lda (.abs 0x1234)) := by
  decide +kernel

theorem test_withFetchWord : after (State.reset.withFetchWord 16 0x05A2) (fun t => (t.pc, t.x)) = some (0x0202, 0x05) := by
  decide +kernel

/-! Well-formedness refuses a mode its mnemonic has no row for, and a documented byte as UNDOC. -/

theorem test_illFormed_loads : (Instr.lda .acc).wellFormed = false ∧ (Instr.ldx (.zpX 0)).wellFormed = false ∧
    (Instr.ldy (.zpY 0)).wellFormed = false := by
  decide

theorem test_illFormed_stores : (Instr.sta (.imm 0)).wellFormed = false ∧ (Instr.stx (.absY 0)).wellFormed = false ∧
    (Instr.sty (.zpY 0)).wellFormed = false := by
  decide

theorem test_illFormed_arithLogic : (Instr.adc .acc).wellFormed = false ∧ (Instr.sbc (.zpY 0)).wellFormed = false ∧
    (Instr.and .implied).wellFormed = false ∧ (Instr.ora (.ind 0)).wellFormed = false ∧
    (Instr.eor (.rel 0)).wellFormed = false ∧ (Instr.bit (.imm 0)).wellFormed = false := by
  decide

theorem test_illFormed_shifts : (Instr.asl (.imm 0)).wellFormed = false ∧ (Instr.lsr (.absY 0)).wellFormed = false ∧
    (Instr.rol .implied).wellFormed = false ∧ (Instr.ror (.indY 0)).wellFormed = false := by
  decide

theorem test_illFormed_compareIncDec : (Instr.cmp .acc).wellFormed = false ∧ (Instr.cpx (.zpX 0)).wellFormed = false ∧
    (Instr.cpy (.absX 0)).wellFormed = false ∧ (Instr.inc .acc).wellFormed = false ∧
    (Instr.dec (.absY 0)).wellFormed = false := by
  decide

theorem test_illFormed_jmp : (Instr.jmp (.zp 0)).wellFormed = false ∧ (Instr.jmp (.absX 0)).wellFormed = false := by decide

theorem test_illFormed_undoc : (Instr.undoc 0xA9).wellFormed = false ∧ (Instr.undoc 0x02).wellFormed = false := by
  decide +kernel

/-- An ill-formed instruction has no encoding. -/
theorem test_illFormed_encode : encode (.lda .acc) = [] ∧ encode (.jmp (.zp 0)) = [] := by decide

/-! The reset load, KIL and the undocumented bytes: the vectors of spec/95_test_vectors.md section 2.1 under their own numbers. -/

theorem test_dsp_1 : after (poke (placed 0x0000 []) [(0xFFFD, 0x02)]) (fun t => t.pc) = some 0x0200 := by
  decide +kernel

theorem test_dsp_2 : after (placed 0x0000 []) (fun t => t.pc) = some 0x0000 := by
  decide +kernel

theorem test_dsp_4 : after { placed 0x0300 [0x02] with a := 0x55, flags := { Flags.cleared with c := true, n := true } }
    (fun t => (t.halted, t.pc)) = some (true, 0x0300) := by
  decide +kernel

theorem test_dsp_6 : after (placed 0x0300 [0x80, 0x44]) (fun t => t.pc) = some 0x0301 := by
  decide +kernel

theorem test_dsp_7 : after (placed 0x0300 [0x12]) (fun t => t.pc) = some 0x0301 := by
  decide +kernel

/-! Loads and stores: the vectors of spec/95_test_vectors.md section 2.2 and 2.3 under their own numbers. -/

theorem test_adr_11 : after { poke (placed 0x0300 [0xA1, 0xFE]) [(0x0000, 0x50), (0x0100, 0x40), (0x4000, 0x88), (0x5000, 0x99)] with x := 0x01 }
    (fun t => (t.pc, t.a, t.flags.n)) = some (0x0302, 0x88, true) := by
  decide +kernel

theorem test_adr_15 : after { poke (placed 0x0300 [0xB1, 0xFF]) [(0x0000, 0x70), (0x0100, 0x60), (0x6005, 0xEE)] with y := 0x05 }
    (fun t => (t.pc, t.a, t.flags.n)) = some (0x0302, 0xEE, true) := by
  decide +kernel

theorem test_adr_4 : after { poke (placed 0x0300 [0xB6, 0xFF]) [(0x0000, 0x33)] with y := 0x01 }
    (fun t => (t.pc, t.x)) = some (0x0302, 0x33) := by
  decide +kernel

theorem test_ls_5 : after { placed 0x0300 [0xBE, 0x34, 0x12] with y := 0x02, x := 0x09 }
    (fun t => (t.pc, t.x, t.flags.z)) = some (0x0303, 0x00, true) := by
  decide +kernel

theorem test_ls_6 : after { poke (placed 0x0300 [0xB4, 0x10]) [(0x000F, 0x40)] with x := 0xFF }
    (fun t => (t.pc, t.y)) = some (0x0302, 0x40) := by
  decide +kernel

theorem test_ls_7 : after { poke (placed 0x0300 [0xBC, 0x00, 0x20]) [(0x2005, 0x80)] with x := 0x05 }
    (fun t => (t.pc, t.y, t.flags.n)) = some (0x0303, 0x80, true) := by
  decide +kernel

theorem test_ls_10 : after { placed 0x0300 [0x99, 0xFF, 0xFF] with a := 0x42, y := 0x02 }
    (fun t => (t.pc, t.mem.read 0x0001)) = some (0x0303, 0x42) := by
  decide +kernel

theorem test_ls_12 : after { poke (placed 0x0300 [0x91, 0x40]) [(0x0041, 0x05)] with a := 0x98, y := 0x10 }
    (fun t => (t.pc, t.mem.read 0x0510)) = some (0x0302, 0x98) := by
  decide +kernel

theorem test_ls_13 : after { placed 0x0300 [0x96, 0x10] with x := 0x33, y := 0xF5 }
    (fun t => (t.pc, t.mem.read 0x0005)) = some (0x0302, 0x33) := by
  decide +kernel

theorem test_ls_15 : after { placed 0x0300 [0x94, 0x20] with y := 0x44, x := 0x01, flags := { Flags.cleared with n := true } }
    (fun t => (t.pc, t.mem.read 0x0021)) = some (0x0302, 0x44) := by
  decide +kernel

/-! Arithmetic and logic: the vectors of spec/95_test_vectors.md section 2.4 to 2.6 under their own numbers. -/

theorem test_adc_2 : after { placed 0x0300 [0x69, 0x50] with a := 0x50 }
    (fun t => (t.pc, t.a, t.flags.v, t.flags.n)) = some (0x0302, 0xA0, true, true) := by
  decide +kernel

theorem test_adc_15 : after { placed 0x0300 [0x69, 0x05] with a := 0x09, flags := { Flags.cleared with d := true } }
    (fun t => (t.pc, t.a)) = some (0x0302, 0x0E) := by
  decide +kernel

theorem test_sbc_2 : after { placed 0x0300 [0xE9, 0xB0] with a := 0x50, flags := { Flags.cleared with c := true } }
    (fun t => (t.pc, t.a, t.flags.c, t.flags.v, t.flags.n)) = some (0x0302, 0xA0, false, true, true) := by
  decide +kernel

theorem test_sbc_14 : after { placed 0x0300 [0xE9, 0x01] with a := 0x10, flags := { Flags.cleared with c := true, d := true } }
    (fun t => (t.pc, t.a)) = some (0x0302, 0x0F) := by
  decide +kernel

theorem test_log_2 : after { placed 0x0300 [0x29, 0x0F] with a := 0xF0 }
    (fun t => (t.pc, t.a, t.flags.z)) = some (0x0302, 0x00, true) := by
  decide +kernel

theorem test_log_5 : after { placed 0x0300 [0x09, 0x80] with a := 0x0F }
    (fun t => (t.pc, t.a, t.flags.n)) = some (0x0302, 0x8F, true) := by
  decide +kernel

theorem test_log_8 : after { placed 0x0300 [0x49, 0x80] with a := 0x01, flags := { Flags.cleared with c := true, v := true } }
    (fun t => (t.pc, t.a, t.flags.n, t.flags.c, t.flags.v)) = some (0x0302, 0x81, true, true, true) := by
  decide +kernel

theorem test_log_9 : after { poke (placed 0x0300 [0x24, 0x10]) [(0x0010, 0xC0)] with a := 0x0F }
    (fun t => (t.pc, t.flags.z, t.flags.v, t.flags.n)) = some (0x0302, true, true, true) := by
  decide +kernel

theorem test_log_10 : after { poke (placed 0x0300 [0x24, 0x10]) [(0x0010, 0x01)] with a := 0xFF, flags := { Flags.cleared with z := true, n := true, v := true } }
    (fun t => (t.pc, t.flags.z, t.flags.v, t.flags.n)) = some (0x0302, false, false, false) := by
  decide +kernel

/-! Shifts and rotates: the vectors of spec/95_test_vectors.md section 2.7 under their own numbers. -/

theorem test_sh_3 : after { placed 0x0300 [0x0A] with a := 0x81 }
    (fun t => (t.pc, t.a, t.flags.c)) = some (0x0301, 0x02, true) := by
  decide +kernel

theorem test_sh_4 : after (poke (placed 0x0300 [0x06, 0x10]) [(0x0010, 0xC0)])
    (fun t => (t.pc, t.flags.c, t.flags.n, t.mem.read 0x0010)) = some (0x0302, true, true, 0x80) := by
  decide +kernel

theorem test_sh_6 : after { placed 0x0300 [0x4A] with a := 0xFF, flags := { Flags.cleared with n := true } }
    (fun t => (t.pc, t.a, t.flags.c, t.flags.n)) = some (0x0301, 0x7F, true, false) := by
  decide +kernel

theorem test_sh_7 : after { poke (placed 0x0300 [0x56, 0x10]) [(0x0011, 0x02)] with x := 0x01, flags := { Flags.cleared with c := true } }
    (fun t => (t.pc, t.flags.c, t.mem.read 0x0011)) = some (0x0302, false, 0x01) := by
  decide +kernel

theorem test_sh_9 : after { placed 0x0300 [0x2A] with a := 0x80, flags := { Flags.cleared with c := true } }
    (fun t => (t.pc, t.a, t.flags.c)) = some (0x0301, 0x01, true) := by
  decide +kernel

theorem test_sh_11 : after { poke (placed 0x0300 [0x2E, 0x34, 0x12]) [(0x1234, 0x7F)] with flags := { Flags.cleared with c := true } }
    (fun t => (t.pc, t.flags.c, t.flags.n, t.mem.read 0x1234)) = some (0x0303, false, true, 0xFF) := by
  decide +kernel

theorem test_sh_13 : after { placed 0x0300 [0x6A] with a := 0x01, flags := { Flags.cleared with c := true } }
    (fun t => (t.pc, t.a, t.flags.n)) = some (0x0301, 0x80, true) := by
  decide +kernel

theorem test_sh_15 : after { poke (placed 0x0300 [0x7E, 0x00, 0x20]) [(0x20FF, 0x02)] with x := 0xFF }
    (fun t => (t.pc, t.mem.read 0x20FF)) = some (0x0303, 0x01) := by
  decide +kernel

/-! Compares, increments and decrements: the vectors of spec/95_test_vectors.md section 2.8 under their own numbers. -/

theorem test_ci_2 : after { placed 0x0300 [0xC9, 0x41] with a := 0x40 }
    (fun t => (t.pc, t.flags.n)) = some (0x0302, true) := by
  decide +kernel

theorem test_ci_9 : after { poke (placed 0x0300 [0xC5, 0x10]) [(0x0010, 0x10)] with a := 0x10, flags := { Flags.cleared with v := true } }
    (fun t => (t.pc, t.flags.c, t.flags.z, t.a, t.flags.v)) = some (0x0302, true, true, 0x10, true) := by
  decide +kernel

theorem test_ci_12 : after { poke (placed 0x0300 [0xEC, 0x34, 0x12]) [(0x1234, 0x7F)] with x := 0xFF }
    (fun t => (t.pc, t.flags.c, t.flags.n)) = some (0x0303, true, true) := by
  decide +kernel

theorem test_ci_13 : after { placed 0x0300 [0xC0, 0x20] with y := 0x10 }
    (fun t => (t.pc, t.flags.n)) = some (0x0302, true) := by
  decide +kernel

theorem test_ci_17 : after { poke (placed 0x0300 [0xF6, 0x10]) [(0x0011, 0x7F)] with x := 0x01 }
    (fun t => (t.pc, t.flags.n, t.mem.read 0x0011)) = some (0x0302, true, 0x80) := by
  decide +kernel

theorem test_ci_19 : after (placed 0x0300 [0xC6, 0x10])
    (fun t => (t.pc, t.flags.n, t.mem.read 0x0010)) = some (0x0302, true, 0xFF) := by
  decide +kernel

theorem test_ci_22 : after { placed 0x0300 [0xE8] with x := 0x7F }
    (fun t => (t.pc, t.x, t.flags.n)) = some (0x0301, 0x80, true) := by
  decide +kernel

theorem test_ci_23 : after { placed 0x0300 [0xC8] with y := 0xFF, flags := { Flags.cleared with c := true } }
    (fun t => (t.pc, t.y, t.flags.z, t.flags.c)) = some (0x0301, 0x00, true, true) := by
  decide +kernel

theorem test_ci_24 : after { placed 0x0300 [0xCA] with x := 0x00 }
    (fun t => (t.pc, t.x, t.flags.n)) = some (0x0301, 0xFF, true) := by
  decide +kernel

theorem test_ci_26 : after { placed 0x0300 [0x88] with y := 0x80 } (fun t => (t.pc, t.y)) = some (0x0301, 0x7F) := by
  decide +kernel

/-! Branches and jumps: the vectors of spec/95_test_vectors.md section 2.9 and 2.2 under their own numbers. -/

theorem test_br_1 : after (placed 0x0300 [0x90, 0x10]) (fun t => t.pc) = some 0x0312 := by
  decide +kernel

theorem test_br_2 : after { placed 0x0300 [0x90, 0x10] with flags := { Flags.cleared with c := true } }
    (fun t => t.pc) = some 0x0302 := by
  decide +kernel

theorem test_br_3 : after (placed 0x0300 [0xB0, 0x10]) (fun t => t.pc) = some 0x0302 := by
  decide +kernel

theorem test_br_4 : after { placed 0x0300 [0xB0, 0x10] with flags := { Flags.cleared with c := true } }
    (fun t => t.pc) = some 0x0312 := by
  decide +kernel

theorem test_br_5 : after (placed 0x0300 [0xF0, 0x10]) (fun t => t.pc) = some 0x0302 := by
  decide +kernel

theorem test_br_18 : after { placed 0xFFF0 [0xF0, 0x20] with flags := { Flags.cleared with z := true } }
    (fun t => t.pc) = some 0x0012 := by
  decide +kernel

theorem test_adr_17 : after (placed 0x0280 [0xD0, 0x80]) (fun t => t.pc) = some 0x0202 := by
  decide +kernel

theorem test_br_8 : after { placed 0x0300 [0xD0, 0x10] with flags := { Flags.cleared with z := true } }
    (fun t => t.pc) = some 0x0302 := by
  decide +kernel

theorem test_br_9 : after (placed 0x0300 [0x30, 0x10]) (fun t => t.pc) = some 0x0302 := by
  decide +kernel

theorem test_br_10 : after { placed 0x0300 [0x30, 0x10] with flags := { Flags.cleared with n := true } }
    (fun t => t.pc) = some 0x0312 := by
  decide +kernel

theorem test_br_11 : after (placed 0x0300 [0x10, 0x10]) (fun t => t.pc) = some 0x0312 := by
  decide +kernel

theorem test_br_12 : after { placed 0x0300 [0x10, 0x10] with flags := { Flags.cleared with n := true } }
    (fun t => t.pc) = some 0x0302 := by
  decide +kernel

theorem test_br_13 : after (placed 0x0300 [0x50, 0x10]) (fun t => t.pc) = some 0x0312 := by
  decide +kernel

theorem test_br_14 : after { placed 0x0300 [0x50, 0x10] with flags := { Flags.cleared with v := true } }
    (fun t => t.pc) = some 0x0302 := by
  decide +kernel

theorem test_br_15 : after (placed 0x0300 [0x70, 0x10]) (fun t => t.pc) = some 0x0302 := by
  decide +kernel

theorem test_br_16 : after { placed 0x0300 [0x70, 0x10] with flags := { Flags.cleared with v := true } }
    (fun t => t.pc) = some 0x0312 := by
  decide +kernel

theorem test_adr_9 : after (poke (placed 0x0300 [0x6C, 0xFF, 0x10]) [(0x1000, 0x99), (0x10FF, 0x34), (0x1100, 0x12)])
    (fun t => t.pc) = some 0x1234 := by
  decide +kernel

theorem test_br_21 : after (placed 0x0300 [0x4C, 0x34, 0x12]) (fun t => t.pc) = some 0x1234 := by
  decide +kernel

/-! Stack: the vectors of spec/95_test_vectors.md section 2.10 under their own numbers. -/

theorem test_st_2 : after { placed 0x0300 [0x48] with a := 0xAB, sp := 0x00 }
    (fun t => (t.pc, t.sp, t.mem.read 0x0100)) = some (0x0301, 0xFF, 0xAB) := by
  decide +kernel

theorem test_st_3 : after { poke (placed 0x0300 [0x68]) [(0x01FF, 0x01)] with sp := 0xFE, flags := { Flags.cleared with z := true, n := true } }
    (fun t => (t.pc, t.a, t.sp, t.flags.z, t.flags.n)) = some (0x0301, 0x01, 0xFF, false, false) := by
  decide +kernel

theorem test_st_6 : after { poke (placed 0x0300 [0x68]) [(0x0100, 0x5A)] with sp := 0xFF }
    (fun t => (t.pc, t.a, t.sp)) = some (0x0301, 0x5A, 0x00) := by
  decide +kernel

theorem test_st_7 : after (placed 0x0300 [0x08])
    (fun t => (t.pc, t.sp, t.mem.read 0x01FF)) = some (0x0301, 0xFE, 0x30) := by
  decide +kernel

theorem test_st_9 : after { placed 0x0300 [0x08] with flags := { Flags.cleared with c := true, z := true, i := true, d := true, b := true, v := true, n := true } }
    (fun t => (t.pc, t.sp, t.mem.read 0x01FF)) = some (0x0301, 0xFE, 0xFF) := by
  decide +kernel

theorem test_st_12 : after { poke (placed 0x0300 [0x28]) [(0x01FF, 0x20)] with sp := 0xFE, flags := { Flags.cleared with c := true } }
    (fun t => (t.pc, t.sp, t.flags.c)) = some (0x0301, 0xFF, false) := by
  decide +kernel

theorem test_st_13 : after { poke (placed 0x0300 [0x28]) [(0x01FF, 0x10)] with sp := 0xFE }
    (fun t => (t.pc, t.sp, t.flags.b)) = some (0x0301, 0xFF, true) := by
  decide +kernel

/-! Subroutines and the interrupt: the vectors of spec/95_test_vectors.md section 2.11 under their own numbers. -/

theorem test_sub_1 : after (placed 0x020A [0x20, 0x10, 0x02])
    (fun t => (t.pc, t.sp, t.mem.read 0x01FF, t.mem.read 0x01FE)) = some (0x0210, 0xFD, 0x02, 0x0C) := by
  decide +kernel

theorem test_sub_2 : after { placed 0x0300 [0x20, 0x00, 0x40] with sp := 0x00 }
    (fun t => (t.pc, t.sp, t.mem.read 0x0100, t.mem.read 0x01FF)) = some (0x4000, 0xFE, 0x03, 0x02) := by
  decide +kernel

theorem test_sub_4 : after { poke (placed 0x0300 [0x60]) [(0x01FE, 0x0C), (0x01FF, 0x02)] with sp := 0xFD }
    (fun t => (t.pc, t.sp)) = some (0x020D, 0xFF) := by
  decide +kernel

theorem test_sub_6 : after { poke (placed 0x0300 [0x60]) [(0x0100, 0x12), (0x01FF, 0x34)] with sp := 0xFE }
    (fun t => (t.pc, t.sp)) = some (0x1235, 0x00) := by
  decide +kernel

theorem test_sub_7 : after { poke (placed 0x0201 [0x00]) [(0xFFFF, 0x03)] with flags := { Flags.cleared with c := true } }
    (fun t => (t.pc, t.sp, t.flags.i, t.mem.read 0x01FF, t.mem.read 0x01FE, t.mem.read 0x01FD)) = some (0x0300, 0xFC, true, 0x02, 0x03, 0x31) := by
  decide +kernel

theorem test_sub_8 : after { poke (placed 0x0300 [0x00]) [(0xFFFF, 0x80)] with flags := { Flags.cleared with i := true, d := true } }
    (fun t => (t.pc, t.mem.read 0x01FD, t.flags.i, t.flags.d)) = some (0x8000, 0x3C, true, true) := by
  decide +kernel

theorem test_sub_10 : after { poke (placed 0x0300 [0x40]) [(0x01FD, 0x31), (0x01FE, 0x03), (0x01FF, 0x02)] with sp := 0xFC, flags := { Flags.cleared with i := true } }
    (fun t => (t.pc, t.sp, t.flags.c, t.flags.i, t.flags.b)) = some (0x0203, 0xFF, true, false, true) := by
  decide +kernel

theorem test_sub_11 : after { poke (placed 0x0300 [0x40]) [(0x01FD, 0xC3), (0x01FF, 0x90)] with sp := 0xFC }
    (fun t => (t.pc, t.sp, t.flags.c, t.flags.z, t.flags.v, t.flags.n)) = some (0x9000, 0xFF, true, true, true, true) := by
  decide +kernel

/-! Flags, transfers, no-op: the vectors of spec/95_test_vectors.md section 2.12 under their own numbers. -/

theorem test_ft_1 : after (placed 0x0300 [0x38]) (fun t => (t.pc, t.flags.c)) = some (0x0301, true) := by
  decide +kernel

theorem test_ft_2 : after { placed 0x0300 [0x18] with flags := { Flags.cleared with c := true } }
    (fun t => (t.pc, t.flags.c)) = some (0x0301, false) := by
  decide +kernel

theorem test_ft_3 : after (placed 0x0300 [0x78]) (fun t => (t.pc, t.flags.i)) = some (0x0301, true) := by
  decide +kernel

theorem test_ft_4 : after { placed 0x0300 [0x58] with flags := { Flags.cleared with i := true } }
    (fun t => (t.pc, t.flags.i)) = some (0x0301, false) := by
  decide +kernel

theorem test_ft_5 : after (placed 0x0300 [0xF8]) (fun t => (t.pc, t.flags.d)) = some (0x0301, true) := by
  decide +kernel

theorem test_ft_6 : after { placed 0x0300 [0xD8] with flags := { Flags.cleared with d := true } }
    (fun t => (t.pc, t.flags.d)) = some (0x0301, false) := by
  decide +kernel

theorem test_ft_7 : after { placed 0x0300 [0xB8] with flags := { Flags.cleared with v := true } }
    (fun t => (t.pc, t.flags.v)) = some (0x0301, false) := by
  decide +kernel

theorem test_ft_9 : after { placed 0x0300 [0xAA] with a := 0x80 }
    (fun t => (t.pc, t.x, t.flags.n)) = some (0x0301, 0x80, true) := by
  decide +kernel

theorem test_ft_10 : after { placed 0x0300 [0xA8] with a := 0x05, flags := { Flags.cleared with z := true } }
    (fun t => (t.pc, t.y, t.flags.z)) = some (0x0301, 0x05, false) := by
  decide +kernel

theorem test_ft_11 : after (placed 0x0300 [0xBA]) (fun t => (t.pc, t.x, t.flags.n)) = some (0x0301, 0xFF, true) := by
  decide +kernel

theorem test_ft_13 : after { placed 0x0300 [0x8A] with x := 0x7F, a := 0x80, flags := { Flags.cleared with n := true } }
    (fun t => (t.pc, t.a, t.flags.n)) = some (0x0301, 0x7F, false) := by
  decide +kernel

theorem test_ft_15 : after { placed 0x0300 [0x9A] with x := 0x00 }
    (fun t => (t.pc, t.sp, t.flags.z)) = some (0x0301, 0x00, false) := by
  decide +kernel

theorem test_ft_16 : after { placed 0x0300 [0x98] with y := 0xFE }
    (fun t => (t.pc, t.a, t.flags.n)) = some (0x0301, 0xFE, true) := by
  decide +kernel

theorem test_ft_18 : after { placed 0x0300 [0xEA] with a := 0x12, flags := { Flags.cleared with c := true } }
    (fun t => (t.pc, t.a, t.flags.c)) = some (0x0301, 0x12, true) := by
  decide +kernel

/-! Overlays (spec/20_memory.md R81): a store under an overlay leaves the plain cell alone and is recorded. -/

/-- A machine with two overlays that share the cell 0x0020. -/
def overlaid : State :=
  { State.reset with config := { overlays := [⟨0x0010, 0x0020⟩, ⟨0x0020, 0x0030⟩], undocModes := [] } }

theorem test_overlay_store : after { overlaid with pc := 0x0300, a := 0x55, mem := [(0x0300, 0x85), (0x0301, 0x20)] }
    (fun t => (t.mem.read 0x20, t.events)) = some (0x00, [⟨.write, 0, 0x0020, 0x55⟩]) := by
  decide +kernel

/-- UNDOC_MODE of a byte moves PC past its operand bytes (spec/40_dispatcher.md R147). -/
theorem test_undoc_mode : after { placed 0x0300 [0x80, 0x44] with config := { overlays := [], undocModes := [(0x80, .immediate)] } }
    (fun t => t.pc) = some 0x0302 := by
  decide +kernel

/-- A cycle against a halted state (log 5). -/
theorem test_halted_step : step { State.reset with halted := true } = .fault .processorHalted := by rfl

/-! Witnesses: for each obligation with hypotheses, an input that meets them all, at boundary values of its clauses. -/

theorem witness_DecodeOfEncodeIsInstruction : (Instr.lda (.indY 0xFF)).wellFormed = true ∧
    (Instr.jmp (.ind 0xFFFF)).wellFormed = true ∧ (Instr.undoc 0xFF).wellFormed = true := by
  decide +kernel

theorem witness_EncodeOfDecodeIsBytes : decode [0x6C, 0xFF, 0xFF, 0x00] = .ok (.jmp (.ind 0xFFFF), [0x00]) := by rfl

theorem witness_OpcodeByteDecidesLength : decode [0xAD, 0x00, 0x00] = .ok (.lda (.abs 0x0000), []) ∧
    decode [0xAD, 0xFF, 0xFF, 0x01] = .ok (.lda (.abs 0xFFFF), [0x01]) := ⟨rfl, rfl⟩

/-- Each class of EveryOpcodeByteDecodes has a byte. -/
theorem witness_EveryOpcodeByteDecodes : Instr.mnemonic .kil = .kil ∧ (0x03 : Byte) ∈ undocumentedBytes ∧
    (0xFF : Byte) ∈ undocumentedBytes ∧ (Mode.implicit, (0x00 : Byte)) ∈ Mnemonic.brk.encodings := by
  decide +kernel

/-- A canonical memory with its first and last cells listed. -/
def edges : Memory := [(0x0000, 0x01), (0xFFFF, 0x02)]

theorem witness_ReadGivesLastWrite : edges.wf = true := by decide

theorem witness_CanonicalMemoriesReadingSameAreEqual : edges.wf = true ∧
    ∀ b, b < 65536 → edges.read b = edges.read b := ⟨by decide, fun _ _ => rfl⟩

/-- Both clauses: an address the first overlay takes though the second holds it too, one only the second holds, and the
addresses just outside. -/
theorem witness_FirstCoveringOverlayTakesAccess :
    overlayAt overlaid.config.overlays 0x0020 = some 0 ∧ overlayAt overlaid.config.overlays 0x0021 = some 1 ∧
    overlayAt overlaid.config.overlays 0x0010 = some 0 ∧ overlayAt overlaid.config.overlays 0x0030 = some 1 ∧
    (∀ o ∈ overlaid.config.overlays, ¬ (o.start.toNat ≤ (0x000F : Word).toNat ∧ (0x000F : Word).toNat ≤ o.last.toNat)) ∧
    (∀ o ∈ overlaid.config.overlays, ¬ (o.start.toNat ≤ (0x0031 : Word).toNat ∧ (0x0031 : Word).toNat ≤ o.last.toNat)) := by
  decide

theorem witness_ResolverOnPlainMemory : State.reset.config.overlays = [] := rfl

theorem witness_ResolverReadCounts :
    { State.reset with config := { overlays := [⟨0x0000, 0xFFFF⟩], undocModes := [] } }.config.overlays =
      [⟨0x0000, 0xFFFF⟩] := rfl

theorem witness_OperandReadIsOneByteRead : (Operand.zp 0xFF).mode ≠ .immediate ∧
    (effAddr (.zp 0xFF) State.reset).1 = some 0x00FF := by
  decide

/-- Each clause: one, two and three bytes, the last wrapping from 0xFFFF to 0x0000. -/
theorem witness_StepRunsDecodedInstruction :
    (placed 0xFFFF [0xEA]).halted = false ∧ (placed 0xFFFF [0xEA]).pc ≠ 0x0000 ∧
    decodesTo [(busRead 0xFFFF (placed 0xFFFF [0xEA])).1] .nop = true ∧
    decodesTo [(busRead 0xFFFF (placed 0xFFFF [0xA9, 0x80])).1, (busRead 0x0000 (placed 0xFFFF [0xA9, 0x80])).1]
      (.lda (.imm 0x80)) = true ∧
    decodesTo [(busRead 0xFFFE (placed 0xFFFE [0xAD, 0x34, 0x12])).1, (busRead 0xFFFF (placed 0xFFFE [0xAD, 0x34, 0x12])).1,
      (busRead 0x0000 (placed 0xFFFE [0xAD, 0x34, 0x12])).1] (.lda (.abs 0x1234)) = true := by
  decide +kernel

theorem witness_ZeroPcIsResetLoad : State.reset.halted = false ∧ State.reset.pc = 0x0000 := by decide

theorem witness_HaltedStateStops : State.reset.halt.halted = true := rfl

theorem witness_KilHaltsInPlace : (placed 0x0300 [0x02]).halted = false ∧ (placed 0x0300 [0x02]).pc ≠ 0x0000 ∧
    (busRead 0x0300 (placed 0x0300 [0x02])).1 = 0x02 := by
  decide

theorem witness_UndocumentedByteIsNoOp : (∀ e ∈ State.reset.config.undocModes, e.1 ≠ (0x80 : Byte)) ∧
    (∀ e ∈ ([(0x80, .immediate)] : List (Byte × Mode)), e.1 ≠ (0xFF : Byte)) := by
  decide

theorem witness_StoresWriteOneByte : State.reset.mem.wf = true ∧ (effAddr (.zp 0x10) State.reset).1 = some 0x0010 ∧
    (effAddr (.absX 0xFFFF) { State.reset with x := 0x01 }).1 = some 0x0000 ∧
    (effAddr (.indY 0xFF) State.reset).1 = some 0x0000 := by
  decide

theorem witness_ShiftsResultAndCarry : State.reset.mem.wf = true ∧ (effAddr (.zpX 0xFF) State.reset).1 = some 0x00FF := by
  decide

theorem witness_RotatesResultAndCarry : State.reset.mem.wf = true ∧
    (effAddr (.absX 0x2000) { State.reset with x := 0xFF }).1 = some 0x20FF := by
  decide

theorem witness_IncDecMemory : State.reset.mem.wf = true ∧ (effAddr (.abs 0xFFFF) State.reset).1 = some 0xFFFF := by decide

theorem witness_StoreIsSeenByFetch : ({ State.reset with a := 0xE8 } : State).mem.wf = true ∧
    ({ State.reset with a := 0xE8 } : State).halted = false ∧ ({ State.reset with a := 0xE8 } : State).plainAt 0x0207 ∧
    decode [0xE8] = .ok (.inx, []) := ⟨rfl, rfl, rfl, rfl⟩

theorem witness_BitTestsWithoutStoring : (Operand.abs 0x1234).mode ≠ .immediate ∧
    (effAddr (.abs 0x1234) State.reset).1 = some 0x1234 := by
  decide

theorem witness_DAndIAndBSteerNothing : Instr.mnemonic (.adc (.imm 0x05)) ≠ .php ∧
    Instr.mnemonic (.adc (.imm 0x05)) ≠ .brk := by
  decide

/-- Of PushesWriteStackCell, SubroutineCallAndReturn and BrkEntersThroughIrqVector. -/
theorem witness_PushesWriteStackCell : State.reset.mem.wf = true ∧ edges.wf = true := by decide

/-- Of PushedWordIsPulledBack, RtsReturnsPastJsr and RtiAfterBrkRestores, at S = 0x00, where the second cell wraps. -/
theorem witness_PushedWordIsPulledBack : ({ State.reset with sp := 0x00 } : State).mem.wf = true ∧
    ({ State.reset with sp := 0x00 } : State).plainAt (stackCell 0x00) ∧
    ({ State.reset with sp := 0x00 } : State).plainAt (stackCell (0x00 - 1)) ∧
    ({ State.reset with sp := 0x00 } : State).plainAt (stackCell (0x00 - 2)) ∧
    stackCell (0x00 - 1) = 0x01FF := by
  refine ⟨rfl, rfl, rfl, rfl, by decide⟩

theorem witness_NopHasNoEffect : (placed 0xFFFF [0xEA]).halted = false ∧ (placed 0xFFFF [0xEA]).pc ≠ 0x0000 ∧
    (busRead 0xFFFF (placed 0xFFFF [0xEA])).1 = 0xEA := by
  decide

/-- Of OnlyListedInstructionsChangeFlags and OnlyListedInstructionsChangeRegisters: an instruction that changes what it may. -/
theorem witness_OnlyListedInstructionsChangeFlags : (Instr.lda (.imm 0x80)).wellFormed = true ∧
    ∃ t, exec (.lda (.imm 0x80)) State.reset = .next t ∧ t.flags.n ≠ State.reset.flags.n ∧ t.a ≠ State.reset.a := by
  refine ⟨by decide, _, rfl, by decide, by decide⟩

theorem witness_OnlyListedInstructionsChangeRegisters : (Instr.ror (.zp 0x10)).wellFormed = true ∧
    ∃ t, exec (.ror (.zp 0x10)) (poke State.reset [(0x0010, 0x02)]) = .next t ∧ t.mem.read 0x10 ≠ 0x02 := by
  refine ⟨by decide, _, rfl, by decide⟩

/-- The invariant holds of a state with a recorded access, and that state steps. -/
theorem witness_StepKeepsInvariant :
    State.inv { overlaid with events := [⟨.write, 1, 0x0030, 0x55⟩] } ∧
    ∃ t, step { overlaid with events := [⟨.write, 1, 0x0030, 0x55⟩] } = .next t := by
  refine ⟨⟨rfl, ?_⟩, _, rfl⟩
  intro e he
  obtain rfl := List.mem_singleton.mp he
  decide

theorem witness_EveryRunGoesOnUnlessHalted : State.reset.halted = false ∧ State.reset.inv ∧
    Reaches State.reset State.reset := by
  refine ⟨rfl, ⟨rfl, ?_⟩, 0, rfl⟩
  intro e he
  cases he

/-- Of OnlyKilHalts and ParametersFixedAndRecordGrows: a step that halts, and one that does not. -/
theorem witness_OnlyKilHalts : after (placed 0x0300 [0x02]) (fun t => t.halted) = some true ∧
    after (placed 0x0300 [0x12]) (fun t => t.halted) = some false := by
  decide +kernel

end Sys2Proof.Tests
end

section
/-! PROOFS. Encoding: what the three opcode tables say of one byte, and what the decoder makes of a byte with enough
operand bytes after it (spec/30_encoding.md R110, R115, R116). -/

namespace Sys2Proof

/-- The two kinds of row of the matrix: an UNDOC row at one of the 104 bytes, or a row with a mode its family rule gives
and the byte the encoder's table gives that mode. -/
theorem opcode_cases (op : Byte) :
    (opcode op = (.undoc, .implicit) ∧ op ∈ undocumentedBytes) ∨
    ((opcode op).1 ≠ .undoc ∧ (opcode op).1.operandModes.contains (opcode op).2 = true ∧
      (opcode op).1.opcodeByte (opcode op).2 = some op) := by
  have agree := tables_agree op
  unfold tablesAgreeAt at agree
  split at agree
  · next hrow =>
    rw [hrow]
    exact .inl (by simpa using agree)
  · next hne hrow =>
    rw [hrow]
    exact .inr ⟨hne, by simpa using agree⟩

/-- The undocumented class: the matrix answers UNDOC exactly at the 104 bytes of R118. -/
theorem opcode_fst_eq_undoc_iff (op : Byte) : (opcode op).1 = .undoc ↔ op ∈ undocumentedBytes := by
  constructor
  · intro h
    obtain ⟨-, hmem⟩ | ⟨hne, -⟩ := opcode_cases op
    · exact hmem
    · exact absurd h hne
  · intro h
    rw [opcode_of_undocumented (List.contains_iff_mem.mpr h)]

theorem opcode_documented {op : Byte} (h : (opcode op).1 ≠ .undoc) :
    (opcode op).1.operandModes.contains (opcode op).2 = true ∧ (opcode op).1.opcodeByte (opcode op).2 = some op := by
  obtain ⟨hrow, -⟩ | ⟨-, hdoc⟩ := opcode_cases op
  · exact absurd (by rw [hrow]) h
  · exact hdoc

theorem mem_encodings_of_opcodeByte {m : Mnemonic} {mode : Mode} {op : Byte} (h : m.opcodeByte mode = some op) :
    (mode, op) ∈ m.encodings := by
  obtain ⟨e, he, rfl⟩ := Option.map_eq_some_iff.mp h
  obtain rfl : e.1 = mode := by simpa using List.find?_some he
  exact List.mem_of_find?_eq_some he

/-- A row the matrix documents stands in the encoder's table. -/
theorem mem_encodings_of_opcode {op : Byte} (h : (opcode op).1 ≠ .undoc) :
    ((opcode op).2, op) ∈ (opcode op).1.encodings :=
  mem_encodings_of_opcodeByte (opcode_documented h).2

/-- The KIL class is the one byte 0x02. -/
theorem opcode_fst_eq_kil_iff (op : Byte) : (opcode op).1 = .kil ↔ op = 0x02 := by
  constructor
  · intro h
    have hmem := mem_encodings_of_opcode (op := op) (by rw [h]; decide)
    rw [h] at hmem
    exact (Prod.mk.inj (List.mem_singleton.mp hmem)).2
  · rintro rfl
    rfl

@[simp] theorem assemble_mnemonic (row : Mnemonic × Mode) (op b1 b2 : Byte) :
    (assemble row op b1 b2).mnemonic = row.1 := by
  obtain ⟨m, mode⟩ := row
  cases m <;> rfl

/-- A row whose mode its mnemonic has makes the operand of that mode, also where the constructor takes no operand. -/
theorem assemble_operand {row : Mnemonic × Mode} (op b1 b2 : Byte) (h : row.1.operandModes.contains row.2 = true) :
    (assemble row op b1 b2).operand = Operand.ofBytes row.2 b1 b2 := by
  obtain ⟨m, mode⟩ := row
  cases m
  case lda | ldx | ldy | sta | stx | sty | adc | sbc | and | ora | eor | bit | asl | lsr | rol | ror | cmp | cpx | cpy
      | inc | dec | jmp => rfl
  -- every other mnemonic has one mode
  all_goals
    obtain rfl := List.mem_singleton.mp (List.contains_iff_mem.mp h)
    rfl

theorem assemble_mode {row : Mnemonic × Mode} (op b1 b2 : Byte) (h : row.1.operandModes.contains row.2 = true) :
    (assemble row op b1 b2).mode = row.2 := by
  rw [Instr.mode, assemble_operand op b1 b2 h, Operand.ofBytes_mode]

theorem decode_of_operandLength_zero {op : Byte} (h : (opcode op).2.operandLength = 0) (rest : List Byte) :
    decode (op :: rest) = .ok (assemble (opcode op) op 0 0, rest) := by
  simp [decode, h]

theorem decode_of_operandLength_one {op : Byte} (h : (opcode op).2.operandLength = 1) (b1 : Byte) (rest : List Byte) :
    decode (op :: b1 :: rest) = .ok (assemble (opcode op) op b1 0, rest) := by
  simp [decode, h]

theorem decode_of_operandLength_two {op : Byte} (h : (opcode op).2.operandLength = 2) (b1 b2 : Byte)
    (rest : List Byte) : decode (op :: b1 :: b2 :: rest) = .ok (assemble (opcode op) op b1 b2, rest) := by
  simp [decode, h]

theorem Mode.operandLength_cases (mode : Mode) :
    mode.operandLength = 0 ∨ mode.operandLength = 1 ∨ mode.operandLength = 2 := by
  cases mode <;> decide

/-- With two bytes after the opcode byte no operand byte is missing. -/
theorem decode_eq_assemble (op b1 b2 : Byte) (rest : List Byte) :
    ∃ c1 c2 r, decode (op :: b1 :: b2 :: rest) = .ok (assemble (opcode op) op c1 c2, r) := by
  obtain h | h | h := (opcode op).2.operandLength_cases
  · exact ⟨_, _, _, decode_of_operandLength_zero h _⟩
  · exact ⟨_, _, _, decode_of_operandLength_one h b1 _⟩
  · exact ⟨_, _, _, decode_of_operandLength_two h b1 b2 rest⟩

/-- Settles O4: the row of the matrix decides the class, and the two tables of R116 agree on every row. -/
theorem everyOpcodeByteDecodes : Obligations.EveryOpcodeByteDecodes := by
  unfold Obligations.EveryOpcodeByteDecodes
  intro op b1 b2 rest
  obtain ⟨c1, c2, r, hdec⟩ := decode_eq_assemble op b1 b2 rest
  refine ⟨_, r, hdec, ?kil, ?undoc, ?documented⟩
  case kil => rw [assemble_mnemonic, opcode_fst_eq_kil_iff]
  case undoc => rw [assemble_mnemonic, opcode_fst_eq_undoc_iff]
  case documented =>
    rw [assemble_mnemonic]
    intro _ hdoc
    rw [assemble_mode op c1 c2 (opcode_documented hdoc).1]
    exact mem_encodings_of_opcode hdoc

end Sys2Proof
end

section
/-! PROOFS. Dispatcher: the reset load (spec/40_dispatcher.md R141). -/

namespace Sys2Proof.Machine

/-- The model's byte concatenation is the statements' arithmetic word (spec/20_memory.md R79). -/
theorem wordLE_eq_wordOf (lo hi : Byte) : wordLE lo hi = wordOf lo hi := by
  apply BitVec.eq_of_toNat_eq
  have := lo.isLt
  have := hi.isLt
  rw [wordLE_toNat, wordOf, BitVec.toNat_ofNat]
  omega

theorem step_of_pc_eq_zero {s : State} (hrun : s.halted = false) (hpc : s.pc = 0x0000) :
    step s = .next (resetLoad s) := by
  simp [step, hrun, hpc]

/-- A word read in terms of its two byte reads: the word, and the record after the second read. -/
theorem busRead16_eq (addr : Word) (s : State) :
    busRead16 addr s =
      (wordOf (busRead addr s).1 (busRead (addr + 1) (busRead addr s).2).1,
        { s with events := (busRead (addr + 1) (busRead addr s).2).2.events }) := by
  refine Prod.ext (wordLE_eq_wordOf _ _) ?_
  exact busRead16_frame addr s

/-- Settles O18: the cycle is the reset load, which is one word read of the reset vector, and 0xFFFC + 1 = 0xFFFD. -/
theorem zeroPcIsResetLoad : Obligations.ZeroPcIsResetLoad := by
  unfold Obligations.ZeroPcIsResetLoad
  intro s hrun hpc
  have hnext : resetVector + 1 = 0xFFFD := rfl
  rw [step_of_pc_eq_zero hrun hpc, resetLoad, busRead16_eq, hnext]
  rfl

end Sys2Proof.Machine
end

section
/-! PROOFS. Addressing: operand bytes read at PC, and the unindexed modes of the resolver (spec/41_addressing.md R163,
R164, R167). -/

namespace Sys2Proof.Machine

/-- PC does not reach the bus: a read from a state with another PC answers and records the same. -/
theorem busRead_setPc (addr : Word) (s : State) (pc : Word) :
    busRead addr (s.setPc pc) = ((busRead addr s).1, (busRead addr s).2.setPc pc) := by
  cases h : overlayAt s.config.overlays addr with
  | none => rw [busRead_plain (s := s) h, busRead_plain (by exact h)]; rfl
  | some k => rw [busRead_overlay (s := s) h, busRead_overlay (k := k) (by exact h)]; rfl

/-- Two operand bytes are the two bytes of the word at PC, read in the same order. -/
theorem fetchOperandBytes_two (s : State) :
    (wordLE (fetchOperandBytes 2 s).1.1 (fetchOperandBytes 2 s).1.2, (fetchOperandBytes 2 s).2) =
      ((busRead16 s.pc s).1, (busRead16 s.pc s).2.setPc (s.pc + 2)) := by
  have hpc : s.pc + 1 + 1 = s.pc + 2 := BitVec.add_assoc s.pc 1 1
  simp only [fetchOperandBytes, fetchByte, State.setPc_pc, busRead_setPc, hpc]
  rfl

theorem resolve_immediate (s : State) : resolve .immediate s = (some s.pc, s.setPc (s.pc + 1)) := rfl

theorem resolve_zeropage (s : State) :
    resolve .zeropage s = (some (zext16 (busRead s.pc s).1), (busRead s.pc s).2.setPc (s.pc + 1)) := rfl

theorem resolve_absolute (s : State) :
    resolve .absolute s = (some (busRead16 s.pc s).1, (busRead16 s.pc s).2.setPc (s.pc + 2)) := by
  obtain ⟨hword, hstate⟩ := Prod.mk.inj (fetchOperandBytes_two s)
  exact Prod.ext (congrArg some hword) hstate

/-- A byte as a zero-page address (R164) is the statements' word of the same number. -/
theorem zext16_eq_ofNat (b : Byte) : zext16 b = BitVec.ofNat 16 b.toNat := (BitVec.ofNat_toNat 16 b).symm

/-- Settles O10: the resolver's equation of each mode, where the bus reads change the event record alone. -/
theorem unindexedModesResolve : Obligations.UnindexedModesResolve := by
  unfold Obligations.UnindexedModesResolve
  intro s
  refine ⟨resolve_immediate s, ?zeropage, ?absolute⟩
  case zeropage =>
    rw [resolve_zeropage, zext16_eq_ofNat, busRead_frame]
    rfl
  case absolute =>
    rw [resolve_absolute, busRead16_frame]
    rfl

end Sys2Proof.Machine
end

section
/-! PROOFS. ArithLogic: the byte an operand with an effective address reads, and BIT (spec/43_arith_logic.md R216). -/

namespace Sys2Proof.Machine

/-- An operand other than an immediate reads the byte at its effective address, after its pointer reads
(spec/41_addressing.md R175). -/
theorem loadOperand_of_effAddr {o : Operand} {s : State} {ea : Word} (hmode : o.mode ≠ .immediate)
    (hea : (effAddr o s).1 = some ea) : loadOperand o s = busRead ea (effAddr o s).2 := by
  have hload : loadOperand o s = loadEa (effAddr o s).1 (effAddr o s).2 := by
    cases o
    case imm => exact absurd rfl hmode
    all_goals rfl
  rw [hload, hea]
  rfl

/-- The flags of BIT by the number of the bit of m each comes from. -/
theorem bitFlags_eq (a m : Byte) (f : Flags) :
    bitFlags a m f = { f with z := decide (a &&& m = 0), n := m.getLsbD 7, v := m.getLsbD 6 } := by
  have hn : m.msb = m.getLsbD 7 := BitVec.msb_eq_getLsbD_last m
  rw [bitFlags, hn]
  rfl

theorem exec_bit (o : Operand) (s : State) :
    exec (.bit o) s =
      .next ((loadOperand o s).2.setFlags (bitFlags s.a (loadOperand o s).1 s.flags)) := rfl

/-- Settles O30: BIT sets the flags from the one byte it reads, and the reads change the event record alone. -/
theorem bitTestsWithoutStoring : Obligations.BitTestsWithoutStoring := by
  unfold Obligations.BitTestsWithoutStoring
  refine ⟨?meaning, rfl⟩
  intro o s ea hmode hea
  rw [exec_bit, bitFlags_eq, loadOperand_frame, loadOperand_of_effAddr hmode hea]
  rfl

end Sys2Proof.Machine
end

section
/-! PROOFS. Memory: what a canonical memory reads after a write (spec/20_memory.md R72, R73), and what a byte write leaves
behind, at a plain cell and under an overlay (R81, R82). -/

namespace Sys2Proof.Machine

theorem Memory.wfFrom_cons_iff {bound k : Nat} {w : Byte} {rest : Memory} :
    Memory.wfFrom bound ((k, w) :: rest) = true ↔
      bound ≤ k ∧ k < 65536 ∧ w ≠ Memory.unlisted ∧ Memory.wfFrom (k + 1) rest = true := by
  simp [Memory.wfFrom, and_assoc]

/-- An entry in front of a canonical memory decides its own address alone. -/
theorem Memory.read_cons {k : Nat} {rest : Memory} (hrest : Memory.wfFrom (k + 1) rest = true) (w : Byte) (b : Nat) :
    Memory.read ((k, w) :: rest) b = if b = k then w else rest.read b := by
  by_cases hlt : b < k
  · have hbelow : rest.read b = Memory.unlisted := Memory.read_below hrest (by omega)
    simp [Memory.read, hlt, hbelow, show b ≠ k by omega]
  · simp [Memory.read, hlt]

/-- Where the address comes before every listed one, a write puts an entry in front, or none when the byte is what an
unlisted address reads as; either way the address reads as the byte. -/
theorem Memory.read_front {addr : Nat} {rest : Memory} (hrest : Memory.wfFrom (addr + 1) rest = true) (v : Byte)
    (b : Nat) :
    Memory.read (if v = Memory.unlisted then rest else (addr, v) :: rest) b =
      if b = addr then v else rest.read b := by
  by_cases hv : v = Memory.unlisted
  · rw [if_pos hv]
    split
    · next hb => rw [hv, hb, Memory.read_below hrest (Nat.lt_succ_self addr)]
    · rfl
  · rw [if_neg hv, Memory.read_cons hrest]

/-- Read after write, along the recursion of the write. -/
theorem Memory.read_write_of_wfFrom {m : Memory} {bound addr : Nat} (hm : Memory.wfFrom bound m = true)
    (ha : addr < 65536) (v : Byte) (b : Nat) :
    (m.write addr v).read b = if b = addr then v else m.read b := by
  induction m generalizing bound with
  | nil => exact Memory.read_front (rest := []) rfl v b
  | cons e rest ih =>
    obtain ⟨k, w⟩ := e
    obtain ⟨-, hk, hw, hrest⟩ := Memory.wfFrom_cons_iff.mp hm
    obtain hlt | rfl | hgt := Nat.lt_trichotomy addr k
    · have habove : Memory.wfFrom (addr + 1) ((k, w) :: rest) = true :=
        Memory.wfFrom_cons_iff.mpr ⟨hlt, hk, hw, hrest⟩
      rw [Memory.write, if_pos hlt]
      exact Memory.read_front habove v b
    · rw [Memory.write, if_neg (Nat.lt_irrefl addr), if_pos rfl, Memory.read_front hrest, Memory.read_cons hrest]
      split_ifs <;> rfl
    · have hkeep : Memory.wfFrom (k + 1) (Memory.write rest addr v) = true := Memory.wfFrom_write hrest hgt ha v
      rw [Memory.write, if_neg (by omega), if_neg (by omega), Memory.read_cons hkeep, Memory.read_cons hrest, ih hrest]
      by_cases hb : b = k
      · simp [hb, Nat.ne_of_lt hgt]
      · simp [hb]

/-- Read after write in a canonical memory: the byte at the address written, the old byte everywhere else. -/
theorem Memory.read_write {m : Memory} {addr : Nat} (hm : m.wf = true) (ha : addr < 65536) (v : Byte) (b : Nat) :
    (m.write addr v).read b = if b = addr then v else m.read b :=
  Memory.read_write_of_wfFrom hm ha v b

/-- A byte write stores as R81 and R82 say, seen from any state with the same plain memory and overlays: the reads
before the write change neither. -/
theorem busWrite_storesAt {s u : State} (hwf : s.mem.wf = true) (hmem : u.mem = s.mem) (hconfig : u.config = s.config)
    (addr : Word) (v : Byte) : s.storesAt (busWrite addr v u) addr v u.events := by
  have hread := Memory.read_write hwf addr.isLt v
  cases hover : overlayAt s.config.overlays addr with
  | none =>
    have hwrite : busWrite addr v u = u.setMem (s.mem.write addr.toNat v) := by
      rw [← hmem]
      exact busWrite_plain (by rw [hconfig, hover])
    rw [hwrite]
    refine ⟨?others, ?plain, ?overlay⟩
    case others => exact fun b hb => by simp [hread, hb]
    case plain => exact fun _ => ⟨by simp [hread], rfl⟩
    case overlay => exact fun k hk => by simp [hover] at hk
  | some k =>
    rw [busWrite_overlay (k := k) (by rw [hconfig, hover])]
    refine ⟨?others, ?plain, ?overlay⟩
    case others => exact fun b _ => by simp [hmem]
    case plain => exact fun hplain => by simp [State.plainAt, hover] at hplain
    case overlay =>
      intro j hj
      obtain rfl : k = j := Option.some.inj (hover.symm.trans hj)
      exact ⟨hmem, rfl⟩

end Sys2Proof.Machine
end

section
/-! PROOFS. ShiftRotate: a shift or rotate as one read-modify-write of A or of memory (spec/44_shift_rotate.md), and ASL and
LSR (R240, R241). -/

namespace Sys2Proof.Machine

theorem setZN_eq_zn (v : Byte) (f : Flags) : setZN v f = f.zn v := by
  have hz : (v == 0) = decide (v.toNat = 0) := by
    rw [Bool.eq_iff_iff]
    simp [BitVec.toNat_eq]
  have hn : v.msb = decide (128 ≤ v.toNat) := BitVec.msb_eq_decide v
  rw [setZN, hz, hn]
  rfl

theorem shiftFlags_eq (out : Bool) (r : Byte) (f : Flags) : shiftFlags out r f = { f with c := out }.zn r :=
  setZN_eq_zn r _

theorem modifyOperand_acc (res : Byte → Byte) (fl : Byte → Flags → Flags) (s : State) :
    modifyOperand .acc res fl s = (s.setA (res s.a)).setFlags (fl s.a s.flags) := rfl

/-- With an effective address a read-modify-write is one read and one write there (R175). -/
theorem modifyOperand_of_effAddr {o : Operand} {s : State} {ea : Word} (hea : (effAddr o s).1 = some ea)
    (res : Byte → Byte) (fl : Byte → Flags → Flags) :
    modifyOperand o res fl s =
      (busWrite ea (res (busRead ea (effAddr o s).2).1) (busRead ea (effAddr o s).2).2).setFlags
        (fl (busRead ea (effAddr o s).2).1 s.flags) := by
  simp [modifyOperand, hea, loadEa]

/-- The read-modify-write of memory, whatever byte and flags it computes: only the flags, the byte stored and the record
of accesses change. -/
theorem modifyOperand_storesAt {o : Operand} {s : State} {ea : Word} (hwf : s.mem.wf = true)
    (hea : (effAddr o s).1 = some ea) (res : Byte → Byte) (fl : Byte → Flags → Flags) :
    let m := busRead ea (effAddr o s).2
    let t := modifyOperand o res fl s
    t = { s with flags := fl m.1 s.flags, mem := t.mem, events := t.events } ∧
      s.storesAt t ea (res m.1) m.2.events := by
  intro m t
  have ht : t = (busWrite ea (res m.1) m.2).setFlags (fl m.1 s.flags) := modifyOperand_of_effAddr hea res fl
  constructor
  · rw [ht, busWrite_frame, busRead_frame, effAddr_frame]
    rfl
  · rw [ht]
    exact busWrite_storesAt (u := m.2) hwf (by simp [m]) (by simp [m]) ea (res m.1)

/-- An instruction that is the read-modify-write of `result` and `out`, the old C fed in, is a shift as the statements
say it. -/
theorem shiftsOperand_of_exec {instr : Operand → Instr} {result : Byte → Bool → Byte} {out : Byte → Bool}
    (hexec : ∀ o s, exec (instr o) s = .next (modifyOperand o (fun v => result v s.flags.c)
      (fun v => shiftFlags (out v) (result v s.flags.c)) s)) : ShiftsOperand instr result out := by
  refine ⟨?accumulator, ?memory⟩
  case accumulator =>
    intro s
    rw [hexec, modifyOperand_acc, shiftFlags_eq]
    rfl
  case memory =>
    intro o s ea hwf hea
    obtain ⟨hframe, hstores⟩ := modifyOperand_storesAt hwf hea (fun v => result v s.flags.c)
      (fun v => shiftFlags (out v) (result v s.flags.c))
    rw [shiftFlags_eq] at hframe
    exact ⟨_, hexec o s, hframe, hstores⟩

theorem aslByte_eq (v : Byte) : aslByte v = BitVec.ofNat 8 (2 * v.toNat % 256) := by
  apply BitVec.eq_of_toNat_eq
  rw [aslByte, BitVec.toNat_shiftLeft, BitVec.toNat_ofNat, Nat.shiftLeft_eq]
  omega

theorem lsrByte_eq (v : Byte) : lsrByte v = BitVec.ofNat 8 (v.toNat / 2) := by
  apply BitVec.eq_of_toNat_eq
  have := v.isLt
  rw [lsrByte, BitVec.toNat_ushiftRight, BitVec.toNat_ofNat, Nat.shiftRight_eq_div_pow]
  omega

theorem exec_asl (o : Operand) (s : State) :
    exec (.asl o) s = .next (modifyOperand o aslByte (fun v => shiftFlags v.msb (aslByte v)) s) := rfl

theorem exec_lsr (o : Operand) (s : State) :
    exec (.lsr o) s = .next (modifyOperand o lsrByte (fun v => shiftFlags (v.getLsbD 0) (lsrByte v)) s) := rfl

/-- Settles O32: ASL and LSR are read-modify-writes of the doubled and the halved byte, C the bit shifted out. -/
theorem shiftsResultAndCarry : Obligations.ShiftsResultAndCarry := by
  unfold Obligations.ShiftsResultAndCarry
  refine ⟨?asl, ?lsr, rfl, rfl⟩
  case asl =>
    apply shiftsOperand_of_exec
    intro o s
    have hmsb (v : Byte) : v.msb = v.getLsbD 7 := BitVec.msb_eq_getLsbD_last v
    simp only [exec_asl, funext aslByte_eq, hmsb]
  case lsr =>
    apply shiftsOperand_of_exec
    intro o s
    simp only [exec_lsr, funext lsrByte_eq]

end Sys2Proof.Machine
end

section
/-! PROOFS. IncDec: a byte plus or minus 1 as a number, the two index registers loaded with Z and N, and INX, INY, DEX and
DEY (spec/45_compare_incdec.md R266 to R269). -/

namespace Sys2Proof.Machine

theorem byte_one_toNat : (1 : Byte).toNat = 1 := rfl

theorem byte_add_one_eq (r : Byte) : r + 1 = BitVec.ofNat 8 ((r.toNat + 1) % 256) := by
  apply BitVec.eq_of_toNat_eq
  rw [BitVec.toNat_add, byte_one_toNat, BitVec.toNat_ofNat]
  omega

/-- Below 0 the byte wraps to 0xFF, as adding 255 modulo 256 does (the corner case of R269). -/
theorem byte_sub_one_eq (r : Byte) : r - 1 = BitVec.ofNat 8 ((r.toNat + 255) % 256) := by
  apply BitVec.eq_of_toNat_eq
  rw [BitVec.toNat_sub, byte_one_toNat, BitVec.toNat_ofNat]
  omega

theorem loadX_eq (v : Byte) (s : State) : loadX v s = { s with x := v, flags := s.flags.zn v } := by
  rw [loadX, setZN_eq_zn]
  rfl

theorem loadY_eq (v : Byte) (s : State) : loadY v s = { s with y := v, flags := s.flags.zn v } := by
  rw [loadY, setZN_eq_zn]
  rfl

theorem exec_inx (s : State) : exec .inx s = .next (loadX (s.x + 1) s) := rfl

theorem exec_iny (s : State) : exec .iny s = .next (loadY (s.y + 1) s) := rfl

theorem exec_dex (s : State) : exec .dex s = .next (loadX (s.x - 1) s) := rfl

theorem exec_dey (s : State) : exec .dey s = .next (loadY (s.y - 1) s) := rfl

/-- Settles O37: each of the four loads an index register with its byte plus or minus 1, and a load of an index register
changes nothing else but Z and N. -/
theorem incDecRegister : Obligations.IncDecRegister := by
  unfold Obligations.IncDecRegister
  refine ⟨?meaning, rfl, rfl, rfl, rfl⟩
  intro s up down
  refine ⟨?inx, ?iny, ?dex, ?dey⟩
  case inx => rw [exec_inx, byte_add_one_eq, loadX_eq]
  case iny => rw [exec_iny, byte_add_one_eq, loadY_eq]
  case dex => rw [exec_dex, byte_sub_one_eq, loadX_eq]
  case dey => rw [exec_dey, byte_sub_one_eq, loadY_eq]

end Sys2Proof.Machine
end

section
/-! PROOFS. FlagsTransfer: the flag instructions and the transfers as loads and flag updates, the cycle of a one-byte
instruction, and NOP (spec/49_flags_transfer_nop.md R350 to R363). -/

namespace Sys2Proof.Machine

/-- Settles O49: each of the seven is one flag update, and its encoding is the one row of its mnemonic. -/
theorem flagInstructionsSetOneFlag : Obligations.FlagInstructionsSetOneFlag := by
  unfold Obligations.FlagInstructionsSetOneFlag
  refine ⟨?meaning, ?opcodes⟩
  case meaning => exact fun s => ⟨rfl, rfl, rfl, rfl, rfl, rfl, rfl⟩
  case opcodes => exact ⟨rfl, rfl, rfl, rfl, rfl, rfl, rfl⟩

theorem loadA_eq (v : Byte) (s : State) : loadA v s = { s with a := v, flags := s.flags.zn v } := by
  rw [loadA, setZN_eq_zn]
  rfl

theorem exec_tax (s : State) : exec .tax s = .next (loadX s.a s) := rfl

theorem exec_tay (s : State) : exec .tay s = .next (loadY s.a s) := rfl

theorem exec_tsx (s : State) : exec .tsx s = .next (loadX s.sp s) := rfl

theorem exec_txa (s : State) : exec .txa s = .next (loadA s.x s) := rfl

theorem exec_txs (s : State) : exec .txs s = .next (s.setSp s.x) := rfl

theorem exec_tya (s : State) : exec .tya s = .next (loadA s.y s) := rfl

/-- Settles O50: five transfers load a register with Z and N; TXS alone sets S and touches no flag. -/
theorem transfersCopyRegister : Obligations.TransfersCopyRegister := by
  unfold Obligations.TransfersCopyRegister
  refine ⟨?meaning, rfl, rfl, rfl, rfl, rfl, rfl⟩
  intro s
  refine ⟨?tax, ?tay, ?tsx, ?txa, ?txs, ?tya⟩
  case tax => rw [exec_tax, loadX_eq]
  case tay => rw [exec_tay, loadY_eq]
  case tsx => rw [exec_tsx, loadX_eq]
  case txa => rw [exec_txa, loadA_eq]
  case txs => exact exec_txs s
  case tya => rw [exec_tya, loadA_eq]

theorem step_of_pc_ne_zero {s : State} (hrun : s.halted = false) (hpc : s.pc ≠ 0x0000) :
    step s = exec (fetchInstr s).1 (fetchInstr s).2 := by
  rw [step, if_neg (Bool.eq_false_iff.mp hrun), if_neg hpc]

/-- An opcode byte without operand bytes: the fetch is one read at PC, and PC moves past that byte (R142, R143). -/
theorem fetchInstr_of_operandLength_zero {s : State} {op : Byte} (hop : (busRead s.pc s).1 = op)
    (hlen : (opcode op).2.operandLength = 0) :
    fetchInstr s = (assemble (opcode op) op 0 0, (busRead s.pc s).2.setPc (s.pc + 1)) := by
  simp only [fetchInstr, fetchByte, hop, hlen, fetchOperandBytes]

theorem exec_nop (s : State) : exec .nop s = .next s := rfl

/-- Settles O51: NOP's cycle is the fetch of its one byte, which changes PC and the event record alone. -/
theorem nopHasNoEffect : Obligations.NopHasNoEffect := by
  unfold Obligations.NopHasNoEffect
  refine ⟨exec_nop, rfl, ?cycle⟩
  intro s hrun hpc hop
  have hinstr : assemble (opcode 0xEA) 0xEA 0 0 = .nop := rfl
  rw [step_of_pc_ne_zero hrun hpc, fetchInstr_of_operandLength_zero hop rfl, hinstr, exec_nop, busRead_frame]
  rfl

end Sys2Proof.Machine
end

section
/-! PROOFS. EncodeDecode: the decoder as an equivalence (the bytes it takes, the instruction they make), the encoder on
well-formed instructions, and the round trips between them (spec/30_encoding.md R110 to R120). -/

namespace Sys2Proof

/-- The operand a mode makes of as many operand bytes as it takes has those bytes (R113). -/
theorem Operand.ofBytes_bytes {mode : Mode} {operands : List Byte} (h : operands.length = mode.operandLength) :
    (Operand.ofBytes mode (operands.getD 0 0) (operands.getD 1 0)).bytes = operands := by
  obtain _ | ⟨b1, _ | ⟨b2, _ | ⟨b3, more⟩⟩⟩ := operands <;> cases mode <;>
    simp [Mode.operandLength, Operand.ofBytes, Operand.bytes] at h ⊢

/-- An operand is the one its mode makes of its bytes. -/
theorem Operand.ofBytes_of_bytes (o : Operand) : Operand.ofBytes o.mode (o.bytes.getD 0 0) (o.bytes.getD 1 0) = o := by
  cases o <;> simp [Operand.ofBytes, Operand.mode, Operand.bytes]

theorem Operand.bytes_length (o : Operand) : o.bytes.length = o.mode.operandLength := by
  cases o <;> rfl

/-- What the decoder does: it takes the opcode byte and as many operand bytes as the row's mode has. -/
theorem decode_eq_ok_iff {bytes rest : List Byte} {i : Instr} :
    decode bytes = .ok (i, rest) ↔ ∃ op operands, bytes = op :: (operands ++ rest) ∧
      operands.length = (opcode op).2.operandLength ∧
      i = assemble (opcode op) op (operands.getD 0 0) (operands.getD 1 0) := by
  constructor
  · intro h
    obtain _ | ⟨op, tail⟩ := bytes
    · simp [decode] at h
    simp only [decode] at h
    split at h
    · next hlen =>
      obtain ⟨rfl, rfl⟩ := Prod.mk.inj (Except.ok.inj h)
      exact ⟨op, [], rfl, hlen.symm, rfl⟩
    · next b1 tail' hlen =>
      obtain ⟨rfl, rfl⟩ := Prod.mk.inj (Except.ok.inj h)
      exact ⟨op, [b1], rfl, hlen.symm, rfl⟩
    · next b1 b2 tail' hlen =>
      obtain ⟨rfl, rfl⟩ := Prod.mk.inj (Except.ok.inj h)
      exact ⟨op, [b1, b2], rfl, hlen.symm, rfl⟩
    · simp at h
  · rintro ⟨op, operands, rfl, hlen, rfl⟩
    match operands, hlen with
    | [], hlen => exact decode_of_operandLength_zero hlen.symm rest
    | [b1], hlen => exact decode_of_operandLength_one hlen.symm b1 rest
    | [b1, b2], hlen => exact decode_of_operandLength_two hlen.symm b1 b2 rest
    | _ :: _ :: _ :: _, hlen =>
      have hcases := (opcode op).2.operandLength_cases
      simp only [List.length_cons] at hlen
      omega

theorem Instr.wellFormed_of_ne_undoc {i : Instr} (h : i.mnemonic ≠ .undoc) :
    i.wellFormed = i.mnemonic.operandModes.contains i.mode := by
  cases i
  case undoc => exact absurd rfl h
  all_goals rfl

theorem Instr.eq_undoc_of_mnemonic {i : Instr} (h : i.mnemonic = .undoc) : ∃ op, i = .undoc op := by
  cases i
  case undoc op => exact ⟨op, rfl⟩
  all_goals simp [Instr.mnemonic] at h

theorem encode_of_opcodeByte {i : Instr} {op : Byte} (h : i.mnemonic.opcodeByte i.mode = some op) :
    encode i = op :: i.operand.bytes := by
  cases i
  case undoc => simp [Instr.mnemonic, Mnemonic.opcodeByte, Mnemonic.encodings] at h
  all_goals simp only [encode, h]

/-- An instruction with a row is what its row and its operand bytes assemble to. -/
theorem assemble_of_instr {i : Instr} (h : i.mnemonic ≠ .undoc) (op : Byte) :
    assemble (i.mnemonic, i.mode) op (i.operand.bytes.getD 0 0) (i.operand.bytes.getD 1 0) = i := by
  have hoperand := i.operand.ofBytes_of_bytes
  cases i
  case undoc => exact absurd rfl h
  case jsr target => exact congrArg Instr.jsr (wordLE_bytes target)
  case lda | ldx | ldy | sta | stx | sty | adc | sbc | and | ora | eor | bit | asl | lsr | rol | ror | cmp | cpx | cpy
      | inc | dec | jmp => exact congrArg _ hoperand
  -- a branch or an instruction without operand
  all_goals rfl

/-- Settles O2: the opcode byte of a well-formed instruction has the instruction's row in the matrix, and the row makes
the instruction of its operand bytes. -/
theorem decodeOfEncodeIsInstruction : Obligations.DecodeOfEncodeIsInstruction := by
  unfold Obligations.DecodeOfEncodeIsInstruction
  intro i rest hwf
  rw [decode_eq_ok_iff]
  by_cases hdoc : i.mnemonic = .undoc
  case pos =>
    obtain ⟨op, rfl⟩ := Instr.eq_undoc_of_mnemonic hdoc
    have hrow := opcode_of_undocumented hwf
    exact ⟨op, [], rfl, by rw [hrow]; rfl, by rw [hrow]; rfl⟩
  case neg =>
    rw [Instr.wellFormed_of_ne_undoc hdoc] at hwf
    obtain ⟨op, hop⟩ := opcodeByte_of_operandModes hdoc hwf
    refine ⟨op, i.operand.bytes, by rw [encode_of_opcodeByte hop]; rfl, ?length, ?instr⟩
    case length => rw [opcode_of_opcodeByte hop, Operand.bytes_length]; rfl
    case instr => rw [opcode_of_opcodeByte hop, assemble_of_instr hdoc]

/-- Settles O3: an undocumented byte has no operand bytes; a documented row is in the encoder's table, and its operand
has the bytes it was made of. -/
theorem encodeOfDecodeIsBytes : Obligations.EncodeOfDecodeIsBytes := by
  unfold Obligations.EncodeOfDecodeIsBytes
  intro bytes i rest hdec
  obtain ⟨op, operands, rfl, hlen, hi⟩ := decode_eq_ok_iff.mp hdec
  obtain ⟨hrow, hmem⟩ | ⟨hne, hmode, hbyte⟩ := opcode_cases op
  · rw [hrow] at hlen hi
    obtain rfl := List.length_eq_zero_iff.mp hlen
    subst hi
    exact ⟨List.contains_iff_mem.mpr hmem, rfl⟩
  · have hmnemonic : i.mnemonic = (opcode op).1 := by rw [hi, assemble_mnemonic]
    have himode : i.mode = (opcode op).2 := by rw [hi, assemble_mode _ _ _ hmode]
    have hoperand : i.operand.bytes = operands := by
      rw [hi, assemble_operand _ _ _ hmode, Operand.ofBytes_bytes hlen]
    constructor
    · rw [Instr.wellFormed_of_ne_undoc (hmnemonic ▸ hne), hmnemonic, himode, hmode]
    · rw [encode_of_opcodeByte (by rw [hmnemonic, himode, hbyte]), hoperand]
      rfl

/-- The instruction of a byte has the mode of the byte's row, UNDOC's implicit one included. -/
theorem assemble_opcode_mode (op b1 b2 : Byte) : (assemble (opcode op) op b1 b2).mode = (opcode op).2 := by
  obtain ⟨hrow, -⟩ | ⟨-, hmode, -⟩ := opcode_cases op
  · rw [hrow]
    rfl
  · exact assemble_mode op b1 b2 hmode

/-- The decoder takes as many bytes as the instruction is long: the opcode byte and those of its row's mode. -/
theorem length_of_decode {op : Byte} {rest r : List Byte} {i : Instr} (h : decode (op :: rest) = .ok (i, r)) :
    i.length = 1 + (opcode op).2.operandLength ∧ rest.length + 1 = i.length + r.length := by
  obtain ⟨op', operands, hbytes, hlen, rfl⟩ := decode_eq_ok_iff.mp h
  obtain ⟨rfl, rfl⟩ := List.cons.inj hbytes
  rw [Instr.length, assemble_opcode_mode, List.length_append]
  omega

/-- Settles O5: the length is that of the row's mode, which the decoder takes. -/
theorem opcodeByteDecidesLength : Obligations.OpcodeByteDecidesLength := by
  unfold Obligations.OpcodeByteDecidesLength
  intro op rest rest' r r' i i' hdec hdec'
  obtain ⟨hlen, htaken⟩ := length_of_decode hdec
  have hcases := (opcode op).2.operandLength_cases
  refine ⟨by rw [hlen, (length_of_decode hdec').1], by omega, htaken, ?undoc⟩
  intro hundoc
  obtain ⟨op', rfl⟩ := Instr.eq_undoc_of_mnemonic hundoc
  rfl

/-- Settles O1: the twelve words, one decoder run each. -/
theorem tableWordsDecode : Obligations.TableWordsDecode := by
  unfold Obligations.TableWordsDecode
  exact ⟨rfl, rfl, rfl, rfl, rfl, rfl, rfl, rfl, rfl, rfl, rfl, rfl⟩

end Sys2Proof
end

section
/-! PROOFS. PlainMemory: a write at any address, canonical memories as functions (spec/20_memory.md R72, R73, R88),
and the resolution of one byte access (R81). -/

namespace Sys2Proof.Machine

/-- Read after write along the recursion of the write, at any number as address: above the listed addresses the order of
the entries alone matters. -/
theorem Memory.read_write_anywhere {m : Memory} {bound : Nat} (hm : Memory.wfFrom bound m = true) (addr : Nat)
    (v : Byte) (b : Nat) : (m.write addr v).read b = if b = addr then v else m.read b := by
  induction m generalizing bound with
  | nil => exact Memory.read_front (rest := []) rfl v b
  | cons e rest ih =>
    obtain ⟨k, w⟩ := e
    obtain ⟨-, hk, hw, hrest⟩ := Memory.wfFrom_cons_iff.mp hm
    obtain hlt | rfl | hgt := Nat.lt_trichotomy addr k
    · have habove : Memory.wfFrom (addr + 1) ((k, w) :: rest) = true :=
        Memory.wfFrom_cons_iff.mpr ⟨hlt, hk, hw, hrest⟩
      rw [Memory.write, if_pos hlt]
      exact Memory.read_front habove v b
    · rw [Memory.write, if_neg (Nat.lt_irrefl addr), if_pos rfl, Memory.read_front hrest, Memory.read_cons hrest]
      split_ifs <;> rfl
    · rw [Memory.write, if_neg (by omega), if_neg (by omega), Memory.read, Memory.read, ih hrest]
      by_cases hb : b = addr
      · simp [hb, hgt.ne', Nat.not_lt_of_gt hgt]
      · simp [hb]

/-- Settles O6: read after write, at any address. -/
theorem readGivesLastWrite : Obligations.ReadGivesLastWrite := by
  unfold Obligations.ReadGivesLastWrite
  exact ⟨fun m addr b v hm => Memory.read_write_anywhere hm addr v b, fun b => rfl⟩

/-- The first listed address of a canonical memory reads as something an unlisted one does not. -/
theorem Memory.read_head_ne {bound k : Nat} {w : Byte} {rest : Memory}
    (hm : Memory.wfFrom bound ((k, w) :: rest) = true) : Memory.read ((k, w) :: rest) k ≠ Memory.unlisted := by
  obtain ⟨-, -, hw, hrest⟩ := Memory.wfFrom_cons_iff.mp hm
  simpa [Memory.read_cons hrest] using hw

/-- Extensionality along the entries: the first addresses agree, since each list reads as unlisted below its own. -/
theorem Memory.ext_of_wfFrom {m m' : Memory} {bound : Nat} (hm : Memory.wfFrom bound m = true)
    (hm' : Memory.wfFrom bound m' = true) (hread : ∀ b, b < 65536 → m.read b = m'.read b) : m = m' := by
  induction m generalizing bound m' with
  | nil =>
    obtain _ | ⟨⟨k', w'⟩, rest'⟩ := m'
    · rfl
    · obtain ⟨-, hk', -, -⟩ := Memory.wfFrom_cons_iff.mp hm'
      exact absurd (hread k' hk').symm (Memory.read_head_ne hm')
  | cons e rest ih =>
    obtain ⟨k, w⟩ := e
    obtain ⟨hb, hk, hw, hrest⟩ := Memory.wfFrom_cons_iff.mp hm
    obtain _ | ⟨⟨k', w'⟩, rest'⟩ := m'
    · exact absurd (hread k hk) (Memory.read_head_ne hm)
    obtain ⟨hb', hk', hw', hrest'⟩ := Memory.wfFrom_cons_iff.mp hm'
    obtain hlt | rfl | hgt := Nat.lt_trichotomy k k'
    · have hbelow : Memory.read ((k', w') :: rest') k = Memory.unlisted :=
        Memory.read_below (Memory.wfFrom_cons_iff.mpr ⟨le_refl k', hk', hw', hrest'⟩) hlt
      exact absurd ((hread k hk).trans hbelow) (Memory.read_head_ne hm)
    · have hhead : w = w' := by simpa [Memory.read_cons hrest, Memory.read_cons hrest'] using hread k hk
      have htail : rest = rest' := by
        refine ih hrest hrest' fun b hlt => ?_
        have heq := hread b hlt
        rw [Memory.read_cons hrest, Memory.read_cons hrest'] at heq
        split at heq
        · rw [Memory.read_below hrest (by omega), Memory.read_below hrest' (by omega)]
        · exact heq
      rw [hhead, htail]
    · have hbelow : Memory.read ((k, w) :: rest) k' = Memory.unlisted :=
        Memory.read_below (Memory.wfFrom_cons_iff.mpr ⟨le_refl k, hk, hw, hrest⟩) hgt
      exact absurd ((hread k' hk').symm.trans hbelow) (Memory.read_head_ne hm')

/-- Settles O7: extensionality from the bound 0. -/
theorem canonicalMemoriesReadingSameAreEqual : Obligations.CanonicalMemoriesReadingSameAreEqual := by
  unfold Obligations.CanonicalMemoriesReadingSameAreEqual
  exact fun m m' hm hm' hread => Memory.ext_of_wfFrom hm hm' hread

theorem overlayContains_iff (o : Overlay) (addr : Word) :
    overlayContains o addr = true ↔ o.start.toNat ≤ addr.toNat ∧ addr.toNat ≤ o.last.toNat := by
  simp [overlayContains]

/-- The first overlay whose range holds the address is the one the access resolves to. -/
theorem overlayAt_eq_some_of_first {overlays : List Overlay} {addr : Word} {k : Nat} {o : Overlay}
    (ho : overlays[k]? = some o) (hin : overlayContains o addr = true)
    (hfirst : ∀ j o', j < k → overlays[j]? = some o' → overlayContains o' addr ≠ true) :
    overlayAt overlays addr = some k := by
  obtain ⟨hk, rfl⟩ := List.getElem?_eq_some_iff.mp ho
  exact List.findIdx?_eq_some_iff_getElem.mpr
    ⟨hk, hin, fun j hj => hfirst j _ hj (List.getElem?_eq_getElem (hj.trans hk))⟩

theorem overlayAt_eq_none_iff {overlays : List Overlay} {addr : Word} :
    overlayAt overlays addr = none ↔ ∀ o ∈ overlays, overlayContains o addr = false :=
  List.findIdx?_eq_none_iff

/-- Settles O8: the place the access resolves to decides the branch of the read and of the write. -/
theorem firstCoveringOverlayTakesAccess : Obligations.FirstCoveringOverlayTakesAccess := by
  unfold Obligations.FirstCoveringOverlayTakesAccess
  intro s addr v
  constructor
  · intro k o ho hstart hlast hfirst
    have hover : overlayAt s.config.overlays addr = some k :=
      overlayAt_eq_some_of_first ho ((overlayContains_iff o addr).mpr ⟨hstart, hlast⟩)
        fun j o' hj ho' hin => hfirst j o' hj ho' ((overlayContains_iff o' addr).mp hin)
    exact ⟨⟨_, busRead_overlay hover⟩, busWrite_overlay hover⟩
  · intro hnone
    have hplain : overlayAt s.config.overlays addr = none :=
      overlayAt_eq_none_iff.mpr fun o ho =>
        Bool.eq_false_iff.mpr fun hin => hnone o ho ((overlayContains_iff o addr).mp hin)
    exact ⟨busRead_plain hplain, busWrite_plain hplain⟩

end Sys2Proof.Machine
end

section
/-! PROOFS. Kept: a property of plain memory, the parameters and the record of accesses that every byte access keeps is
kept by every operation, every meaning and every step. The invariant of the machine, the growth of the record and the
fixed parameters are three such properties. -/

namespace Sys2Proof.Machine

/-- A property of states that looks at plain memory, the parameters and the record alone and that a byte read keeps. -/
structure KeptByReads (K : State → Prop) : Prop where
  congr : ∀ {s t : State}, K s → t.mem = s.mem → t.config = s.config → t.events = s.events → K t
  read : ∀ (addr : Word) {s : State}, K s → K (busRead addr s).2

/-- Such a property that a byte write keeps too. -/
structure KeptByAccesses (K : State → Prop) : Prop extends KeptByReads K where
  write : ∀ (addr : Word) (v : Byte) {s : State}, K s → K (busWrite addr v s)

section Reads

variable {K : State → Prop} (hK : KeptByReads K)
include hK

theorem KeptByReads.read16 (addr : Word) {s : State} (h : K s) : K (busRead16 addr s).2 :=
  hK.read (addr + 1) (hK.read addr h)

theorem KeptByReads.fetch {s : State} (h : K s) : K (fetchByte s).2 :=
  hK.congr (hK.read s.pc h) rfl rfl rfl

theorem KeptByReads.fetchOperandBytes (n : Nat) {s : State} (h : K s) : K (fetchOperandBytes n s).2 :=
  match n with
  | 0 => h
  | 1 => hK.fetch h
  | _ + 2 => hK.fetch (hK.fetch h)

theorem KeptByReads.effAddr (o : Operand) {s : State} (h : K s) : K (effAddr o s).2 := by
  cases o
  case ind | indX | indY => exact hK.read16 _ h
  all_goals exact h

theorem KeptByReads.loadEa (ea : Option Word) {s : State} (h : K s) : K (loadEa ea s).2 := by
  cases ea with
  | none => exact h
  | some addr => exact hK.read addr h

theorem KeptByReads.loadOperand (o : Operand) {s : State} (h : K s) : K (loadOperand o s).2 := by
  cases o
  case imm => exact h
  all_goals exact hK.loadEa _ (hK.effAddr _ h)

theorem KeptByReads.jumpTo (o : Operand) {s : State} (h : K s) : K (jumpTo o s) := by
  cases o
  case implied | acc => exact h
  all_goals exact hK.congr (hK.effAddr _ h) rfl rfl rfl

theorem KeptByReads.branchIf (cond : Bool) (off : Byte) {s : State} (h : K s) : K (branchIf cond off s) := by
  cases cond
  · exact h
  · exact hK.jumpTo (.rel off) h

theorem KeptByReads.resolve (mode : Mode) {s : State} (h : K s) : K (resolve mode s).2 := by
  cases mode
  case implicit | accumulator => exact h
  case immediate => exact hK.congr h rfl rfl rfl
  all_goals exact hK.effAddr _ (hK.fetchOperandBytes _ h)

theorem KeptByReads.pull {s : State} (h : K s) : K (pull s).2 :=
  hK.read _ (hK.congr h rfl rfl rfl)

theorem KeptByReads.pull16 {s : State} (h : K s) : K (pull16 s).2 := hK.pull (hK.pull h)

theorem KeptByReads.returnFromInterrupt {s : State} (h : K s) : K (returnFromInterrupt s) :=
  have hflags : K ((Machine.pull s).2.setFlags (unpackP (Machine.pull s).1)) := hK.congr (hK.pull h) rfl rfl rfl
  hK.congr (hK.pull16 hflags) rfl rfl rfl

theorem KeptByReads.resetLoad {s : State} (h : K s) : K (resetLoad s) :=
  hK.congr (hK.read16 resetVector h) rfl rfl rfl

theorem KeptByReads.fetchInstr {s : State} (h : K s) : K (fetchInstr s).2 :=
  hK.fetchOperandBytes _ (hK.fetch h)

end Reads

section Accesses

variable {K : State → Prop} (hK : KeptByAccesses K)
include hK

theorem KeptByAccesses.push (v : Byte) {s : State} (h : K s) : K (push v s) :=
  hK.congr (hK.write (stackAddress s.sp) v h) rfl rfl rfl

theorem KeptByAccesses.push16 (w : Word) {s : State} (h : K s) : K (push16 w s) := hK.push _ (hK.push _ h)

theorem KeptByAccesses.storeEa (ea : Option Word) (r : Byte) {s : State} (h : K s) : K (storeEa ea r s) := by
  cases ea with
  | none => exact hK.congr h rfl rfl rfl
  | some addr => exact hK.write addr r h

theorem KeptByAccesses.storeOperand (o : Operand) (v : Byte) {s : State} (h : K s) : K (storeOperand o v s) :=
  hK.storeEa _ v (hK.effAddr o h)

theorem KeptByAccesses.modifyOperand (o : Operand) (res : Byte → Byte) (fl : Byte → Flags → Flags) {s : State}
    (h : K s) : K (modifyOperand o res fl s) :=
  hK.congr (hK.storeEa _ (res _) (hK.loadEa _ (hK.effAddr o h))) rfl rfl rfl

theorem KeptByAccesses.enterInterrupt (ret : Word) {s : State} (h : K s) : K (enterInterrupt ret s) :=
  hK.congr (hK.read16 irqVector (hK.push _ (hK.push16 ret h))) rfl rfl rfl

/-- Every meaning keeps what every byte access keeps. -/
theorem KeptByAccesses.exec {i : Instr} {s t : State} (h : K s) (hexec : exec i s = .next t) : K t := by
  cases i <;> obtain rfl := Host.Outcome.next.inj hexec
  case lda o | ldx o | ldy o | adc o | sbc o | and o | ora o | eor o | bit o | cmp o | cpx o | cpy o =>
    exact hK.congr (hK.loadOperand o h) rfl rfl rfl
  case sta o | stx o | sty o => exact hK.storeOperand o _ h
  case asl o | lsr o | rol o | ror o | inc o | dec o => exact hK.modifyOperand o _ _ h
  case bcc | bcs | beq | bne | bmi | bpl | bvc | bvs => exact hK.branchIf _ _ h
  case jmp o => exact hK.jumpTo o h
  case pha | php => exact hK.push _ h
  case pla | plp => exact hK.congr (hK.pull h) rfl rfl rfl
  case jsr target => exact hK.jumpTo _ (hK.push16 _ h)
  case rts => exact hK.congr (hK.pull16 h) rfl rfl rfl
  case brk => exact hK.enterInterrupt _ h
  case rti => exact hK.returnFromInterrupt h
  case undoc op => exact hK.resolve _ h
  -- the register and flag instructions touch neither memory nor the record
  all_goals exact hK.congr h rfl rfl rfl

/-- A step, too, keeps what every byte access keeps: it is a reset load, or a fetch and a meaning. -/
theorem KeptByAccesses.step {s t : State} (h : K s) (hstep : step s = .next t) : K t := by
  unfold Machine.step at hstep
  split at hstep
  · cases hstep
  split at hstep
  · obtain rfl := Host.Outcome.next.inj hstep
    exact hK.resetLoad h
  · exact hK.exec (hK.fetchInstr h) hstep

end Accesses

theorem inv_keptByAccesses : KeptByAccesses State.inv where
  congr h hm hc he := (State.inv_congr hm hc he).mpr h
  read _ _ h := busRead_inv h
  write _ _ _ h := busWrite_inv h

/-- Settles O54: a byte access keeps the invariant, so a step does. -/
theorem stepKeepsInvariant : Obligations.StepKeepsInvariant := by
  unfold Obligations.StepKeepsInvariant
  exact fun s t hinv hstep => inv_keptByAccesses.step hinv hstep

/-- Having some parameters, and a record that extends a given one. -/
def State.extendsRecord (config : Config) (events : List OverlayEvent) (t : State) : Prop :=
  t.config = config ∧ events <+: t.events

theorem busRead_extends_events (addr : Word) (s : State) : s.events <+: (busRead addr s).2.events := by
  unfold busRead
  split
  · exact List.prefix_append _ _
  · exact List.prefix_refl _

theorem busWrite_extends_events (addr : Word) (v : Byte) (s : State) : s.events <+: (busWrite addr v s).events := by
  unfold busWrite
  split
  · exact List.prefix_append _ _
  · exact List.prefix_refl _

theorem extendsRecord_keptByAccesses (config : Config) (events : List OverlayEvent) :
    KeptByAccesses (State.extendsRecord config events) where
  congr h _ hc he := ⟨hc.trans h.1, he ▸ h.2⟩
  read addr s h := ⟨(busRead_config addr s).trans h.1, h.2.trans (busRead_extends_events addr s)⟩
  write addr v s h := ⟨(busWrite_config addr v s).trans h.1, h.2.trans (busWrite_extends_events addr v s)⟩

/-- Settles O58: a step keeps "these parameters, a record that extends this one". -/
theorem parametersFixedAndRecordGrows : Obligations.ParametersFixedAndRecordGrows := by
  unfold Obligations.ParametersFixedAndRecordGrows
  intro s t hstep
  obtain ⟨hconfig, more, hmore⟩ :=
    (extendsRecord_keptByAccesses s.config s.events).step ⟨rfl, List.prefix_refl _⟩ hstep
  exact ⟨hconfig, more, hmore.symm⟩

end Sys2Proof.Machine
end

section
/-! PROOFS. Run: the power-on state (spec/10_state.md R51), and runs: every state that is not halted has a next one,
and what every step keeps holds of all that is reached (spec/40_dispatcher.md R149, spec/60_exceptions.md R400). -/

namespace Sys2Proof.Machine

theorem powerOn_inv (a x y : Byte) (config : Config) : (State.powerOn a x y config).inv :=
  ⟨Memory.wf_nil, fun _ he => absurd he List.not_mem_nil⟩

/-- Settles O55: at power-on plain memory and the record are empty. -/
theorem powerOnMeetsInvariant : Obligations.PowerOnMeetsInvariant := by
  unfold Obligations.PowerOnMeetsInvariant
  exact ⟨powerOn_inv, powerOn_inv _ _ _ _⟩

/-- Settles O59: the fields of the power-on state; the reset state is the one with A, X and Y 0. -/
theorem powerOnValues : Obligations.PowerOnValues := by
  unfold Obligations.PowerOnValues
  refine ⟨fun a x y config => ?_, 0x00, 0x00, 0x00, rfl⟩
  exact ⟨rfl, rfl, rfl, rfl, rfl, rfl, rfl, rfl, rfl, rfl, rfl, rfl, rfl, fun _ => rfl⟩

/-- Settles O19: a step tests the Halted bit first. -/
theorem haltedStateStops : Obligations.HaltedStateStops := by
  unfold Obligations.HaltedStateStops
  exact fun s hhalted => if_pos hhalted

/-- No meaning faults or is refused. -/
theorem exec_exists_next (i : Instr) (s : State) : ∃ t, exec i s = .next t := by
  cases i <;> exact ⟨_, rfl⟩

theorem step_exists_next {s : State} (hrun : s.halted = false) : ∃ t, step s = .next t := by
  by_cases hpc : s.pc = 0x0000
  · exact ⟨_, step_of_pc_eq_zero hrun hpc⟩
  · rw [step_of_pc_ne_zero hrun hpc]
    exact exec_exists_next _ _

theorem run_succ_of_next {s t : State} (h : step s = .next t) (k : Nat) :
    Host.Core.run Sys2Proof.core (k + 1) s = Host.Core.run Sys2Proof.core k t := by
  have hstep : Sys2Proof.core.step s = .next t := h
  simp only [Host.Core.run, hstep]

theorem run_succ_of_halted {s : State} (h : s.halted = true) (k : Nat) :
    Host.Core.run Sys2Proof.core (k + 1) s = .fault .processorHalted := by
  have hstep : Sys2Proof.core.step s = .fault .processorHalted := if_pos h
  simp only [Host.Core.run, hstep]

/-- A run of `k` cycles ends in a state, or it met a halted state before. -/
theorem run_next_or_halted (k : Nat) (s : State) : (∃ t, Host.Core.run Sys2Proof.core k s = .next t) ∨
    ∃ j t, j < k ∧ Host.Core.run Sys2Proof.core j s = .next t ∧ t.halted = true ∧
      Host.Core.run Sys2Proof.core k s = .fault .processorHalted := by
  induction k generalizing s with
  | zero => exact .inl ⟨s, rfl⟩
  | succ k ih =>
    cases hrun : s.halted with
    | true => exact .inr ⟨0, s, k.succ_pos, rfl, hrun, run_succ_of_halted hrun k⟩
    | false =>
      obtain ⟨u, hstep⟩ := step_exists_next hrun
      have hsucc (j : Nat) := run_succ_of_next hstep j
      obtain ⟨t, ht⟩ | ⟨j, t, hj, ht, hhalted, hfault⟩ := ih u
      · exact .inl ⟨t, (hsucc k).trans ht⟩
      · exact .inr ⟨j + 1, t, Nat.succ_lt_succ hj, (hsucc j).trans ht, hhalted, (hsucc k).trans hfault⟩

/-- What every step keeps holds of every state a run reaches. -/
theorem of_reaches {K : State → Prop} (hK : ∀ s t, K s → step s = .next t → K t) {s t : State} (h : K s)
    (hreach : Reaches s t) : K t := by
  obtain ⟨k, hk⟩ := hreach
  induction k generalizing s with
  | zero =>
    obtain rfl := Host.Outcome.next.inj hk
    exact h
  | succ k ih =>
    cases hrun : s.halted with
    | true =>
      rw [run_succ_of_halted hrun] at hk
      cases hk
    | false =>
      obtain ⟨u, hstep⟩ := step_exists_next hrun
      rw [run_succ_of_next hstep] at hk
      exact ih (hK s u h hstep) hk

/-- Settles O56: every meaning has a next state, and every step keeps the invariant. -/
theorem everyRunGoesOnUnlessHalted : Obligations.EveryRunGoesOnUnlessHalted := by
  unfold Obligations.EveryRunGoesOnUnlessHalted
  exact ⟨fun s => step_exists_next, run_next_or_halted, fun s t => of_reaches stepKeepsInvariant⟩

end Sys2Proof.Machine
end

section
/-! PROOFS. Resolver: addresses as numbers, the effective address of every mode, what the resolver reads and how often
(spec/41_addressing.md R160 to R176). -/

namespace Sys2Proof.Machine

theorem word_add_one_eq (w : Word) : w + 1 = BitVec.ofNat 16 (w.toNat + 1) := by
  rw [BitVec.ofNat_add, BitVec.ofNat_toNat, BitVec.setWidth_eq]
  rfl

/-- An indexed zero-page address wraps in the zero page (R165, R166; D9). -/
theorem zext16_add_eq (b r : Byte) : zext16 (b + r) = BitVec.ofNat 16 ((b.toNat + r.toNat) % 256) := by
  rw [zext16_eq_ofNat, BitVec.toNat_add]

/-- An indexed absolute address wraps modulo 65536 (R168, R169; D11). -/
theorem word_add_zext16_eq (w : Word) (r : Byte) : w + zext16 r = BitVec.ofNat 16 (w.toNat + r.toNat) := by
  rw [BitVec.ofNat_add, BitVec.ofNat_toNat, BitVec.setWidth_eq, zext16_eq_ofNat]

/-- A branch target is PC plus the signed offset modulo 65536 (R173; D11). -/
theorem word_add_sext16_eq (w : Word) (b : Byte) : w + sext16 b = BitVec.ofInt 16 (w.toNat + b.toInt) := by
  rw [BitVec.ofInt_add, BitVec.ofInt_natCast, BitVec.ofNat_toNat, BitVec.setWidth_eq]
  rfl

/-- Settles O9: the two byte reads, in their order, with the word as arithmetic. -/
theorem wordReadIsTwoByteReads : Obligations.WordReadIsTwoByteReads := by
  unfold Obligations.WordReadIsTwoByteReads
  intro s addr lo hi
  have hnext : BitVec.ofNat 16 (addr.toNat + 1) = addr + 1 := (word_add_one_eq addr).symm
  exact Prod.ext ((wordLE_eq_wordOf _ _).trans (by simp only [hi, lo, hnext])) (by simp only [hi, lo, hnext]; rfl)

/-- Settles O12: each mode's sum as a number; only the pointer modes go through the bus. -/
theorem effectiveAddressOfOperand : Obligations.EffectiveAddressOfOperand := by
  unfold Obligations.EffectiveAddressOfOperand
  intro s b w
  simp only [← zext16_eq_ofNat, ← zext16_add_eq, ← word_add_zext16_eq, ← word_add_sext16_eq]
  exact ⟨rfl, rfl, rfl, rfl, rfl, rfl, rfl, rfl, rfl, rfl, rfl, rfl⟩

/-- Settles O15: an operand other than an immediate is read once at its effective address. -/
theorem operandReadIsOneByteRead : Obligations.OperandReadIsOneByteRead := by
  unfold Obligations.OperandReadIsOneByteRead
  exact ⟨fun v s => rfl, fun o s ea hmode hea => loadOperand_of_effAddr hmode hea⟩

theorem effAddr_eq_none_iff (o : Operand) (s : State) :
    (effAddr o s).1 = none ↔ o.mode = .implicit ∨ o.mode = .accumulator := by
  cases o <;> simp [effAddr, Operand.mode]

/-- Settles O16: said of the operand, whose mode is the instruction's. -/
theorem effectiveAddressExists : Obligations.EffectiveAddressExists := by
  unfold Obligations.EffectiveAddressExists
  exact fun i s => effAddr_eq_none_iff i.operand s

/-- Every mode but the immediate, whose byte the resolver does not read: fetch the operand, then compute its address. -/
theorem resolve_eq_effAddr {mode : Mode} (h : mode ≠ .immediate) (s : State) :
    resolve mode s = effAddr (fetchOperand mode s).1 (fetchOperand mode s).2 := by
  cases mode
  case immediate => exact absurd rfl h
  all_goals rfl

theorem fetchByte_plain {s : State} (h : s.plainAt s.pc) :
    fetchByte s = (s.mem.read s.pc.toNat, s.setPc (s.pc + 1)) := by
  rw [fetchByte, busRead_plain h]

theorem plainAt_of_no_overlays {s : State} (h : s.config.overlays = []) (addr : Word) : s.plainAt addr := by
  rw [State.plainAt, h]
  rfl

/-- The operand bytes on plain memory: the bytes from PC on, as many as the mode takes. -/
theorem fetchOperandBytes_plain {s : State} (h : s.config.overlays = []) :
    fetchOperandBytes 1 s = ((s.mem.read s.pc.toNat, 0), s.setPc (s.pc + 1)) ∧
    fetchOperandBytes 2 s =
      ((s.mem.read s.pc.toNat, s.mem.read (s.pc + 1).toNat), s.setPc (s.pc + 2)) := by
  have hone : fetchByte s = (s.mem.read s.pc.toNat, s.setPc (s.pc + 1)) := fetchByte_plain (plainAt_of_no_overlays h _)
  have htwo : fetchByte (s.setPc (s.pc + 1)) = (s.mem.read (s.pc + 1).toNat, s.setPc (s.pc + 1 + 1)) :=
    fetchByte_plain (plainAt_of_no_overlays h _)
  have hpc : s.pc + 1 + 1 = s.pc + 2 := BitVec.add_assoc s.pc 1 1
  simp only [fetchOperandBytes, hone, htwo, hpc, and_self]

/-- A pointer on plain memory: the word of the byte there and of the byte at the next address (D10), nothing recorded.
-/
theorem busRead16_no_overlays {s : State} (h : s.config.overlays = []) (p : Word) :
    busRead16 p s = (wordOf (s.mem.read p.toNat) (s.mem.read (p + 1).toNat), s) := by
  rw [busRead16_plain (plainAt_of_no_overlays h _) (plainAt_of_no_overlays h _), wordLE_eq_wordOf]

/-- Where the resolver fetches one operand byte, or two, from plain memory: the operand they make, and PC past them. -/
theorem resolve_plain {s : State} (h : s.config.overlays = []) {mode : Mode} (hmode : mode ≠ .immediate) :
    (mode.operandLength = 1 → resolve mode s =
      effAddr (Operand.ofBytes mode (s.mem.read s.pc.toNat) 0) (s.setPc (s.pc + 1))) ∧
    (mode.operandLength = 2 → resolve mode s =
      effAddr (Operand.ofBytes mode (s.mem.read s.pc.toNat) (s.mem.read (s.pc + 1).toNat)) (s.setPc (s.pc + 2))) := by
  obtain ⟨hone, htwo⟩ := fetchOperandBytes_plain h
  constructor
  · intro hlen
    rw [resolve_eq_effAddr hmode, fetchOperand, hlen, hone]
  · intro hlen
    rw [resolve_eq_effAddr hmode, fetchOperand, hlen, htwo]

/-- Settles O11: the operand bytes read at PC, then the effective address of the operand they make, with PC past them.
-/
theorem resolverOnPlainMemory : Obligations.ResolverOnPlainMemory := by
  unfold Obligations.ResolverOnPlainMemory
  intro s hover b w word s1 s2
  have one {mode : Mode} (hmode : mode ≠ .immediate) := (resolve_plain hover hmode).1
  have two {mode : Mode} (hmode : mode ≠ .immediate) := (resolve_plain hover hmode).2
  have hword : wordLE b (s.mem.read (s.pc + 1).toNat) = w := wordLE_eq_wordOf _ _
  have hpointer1 (p : Word) : busRead16 p s1 = (word p, s1) := busRead16_no_overlays (s := s1) hover p
  have hpointer2 (p : Word) : busRead16 p s2 = (word p, s2) := busRead16_no_overlays (s := s2) hover p
  have htarget : BitVec.ofInt 16 ((s.pc + 1).toNat + b.toInt) = BitVec.ofInt 16 (s.pc.toNat + 1 + b.toInt) := by
    rw [← word_add_sext16_eq, BitVec.ofInt_add, ← Int.natCast_add_one, BitVec.ofInt_natCast, ← word_add_one_eq]
    rfl
  obtain ⟨-, -, hzp, hzpX, hzpY, -, -, -, hrel, -, hindX, hindY⟩ := effectiveAddressOfOperand s1 b w
  obtain ⟨-, -, -, -, -, habs, habsX, habsY, -, hind, -, -⟩ := effectiveAddressOfOperand s2 b w
  simp only [hpointer1] at hindX hindY
  simp only [hpointer2] at hind
  rw [← hword] at habs habsX habsY hind
  refine ⟨rfl, rfl, rfl, ?zeropage, ?zeropageX, ?zeropageY, ?absolute, ?absoluteX, ?absoluteY, ?indirect, ?indirectX,
    ?indirectY, ?relative⟩
  case zeropage => exact (one (by decide) rfl).trans hzp
  case zeropageX => exact (one (by decide) rfl).trans hzpX
  case zeropageY => exact (one (by decide) rfl).trans hzpY
  case absolute => rw [← hword]; exact (two (by decide) rfl).trans habs
  case absoluteX => rw [← hword]; exact (two (by decide) rfl).trans habsX
  case absoluteY => rw [← hword]; exact (two (by decide) rfl).trans habsY
  case indirect => rw [← hword]; exact (two (by decide) rfl).trans hind
  case indirectX => exact (one (by decide) rfl).trans hindX
  case indirectY => exact (one (by decide) rfl).trans hindY
  case relative => rw [← htarget]; exact (one (by decide) rfl).trans hrel

/-- A record that a given one grows to by reads alone. -/
def GrowsByReads (events events' : List OverlayEvent) : Prop :=
  ∃ reads, events' = events ++ reads ∧ ∀ e ∈ reads, e.kind = .read

theorem GrowsByReads.refl (events : List OverlayEvent) : GrowsByReads events events :=
  ⟨[], (List.append_nil events).symm, fun _ he => absurd he List.not_mem_nil⟩

/-- A byte read adds nothing, or one read. -/
theorem busRead_growsByReads {events : List OverlayEvent} (addr : Word) {s : State}
    (h : GrowsByReads events s.events) : GrowsByReads events (busRead addr s).2.events := by
  cases hover : overlayAt s.config.overlays addr with
  | none =>
    rw [busRead_plain hover]
    exact h
  | some k =>
    obtain ⟨reads, hreads, hkind⟩ := h
    rw [busRead_overlay hover]
    refine ⟨reads ++ [⟨.read, k, addr, Config.overlayRead k addr s.events⟩], ?_, ?_⟩
    · rw [State.logEvent_events, hreads, List.append_assoc]
    · intro e he
      obtain he | he := List.mem_append.mp he
      · exact hkind e he
      · rw [List.mem_singleton.mp he]

theorem growsByReads_keptByReads (events : List OverlayEvent) :
    KeptByReads fun t => GrowsByReads events t.events where
  congr h _ _ he := he ▸ h
  read addr _ h := busRead_growsByReads addr h

/-- The resolver moves PC past the operand bytes of its mode (R160). -/
theorem resolve_pc (mode : Mode) (s : State) :
    (resolve mode s).2.pc = s.pc + BitVec.ofNat 16 mode.operandLength := by
  by_cases h : mode = .immediate
  · rw [h]
    rfl
  · rw [resolve_eq_effAddr h, effAddr_pc, ← fetchOperandBytes_pc]
    rfl

/-- Settles O13: the frame of the resolver, its PC advance, and the reads it performs. -/
theorem resolverChangesOnlyPc : Obligations.ResolverChangesOnlyPc := by
  unfold Obligations.ResolverChangesOnlyPc
  intro mode s
  obtain ⟨reads, hreads, hkind⟩ := (growsByReads_keptByReads s.events).resolve mode (GrowsByReads.refl s.events)
  refine ⟨reads, ?_, hkind⟩
  rw [resolve_frame, resolve_pc, hreads]

/-! Counting reads: under one overlay over the whole address space every byte read is recorded. -/

theorem busRead_events_length {s : State} (h : s.config.overlays = [⟨0x0000, 0xFFFF⟩]) (addr : Word) :
    (busRead addr s).2.events.length = s.events.length + 1 := by
  have hover : overlayAt s.config.overlays addr = some 0 := by
    rw [h]
    refine overlayAt_eq_some_of_first rfl ((overlayContains_iff _ _).mpr ⟨Nat.zero_le _, ?_⟩) fun j _ hj => by omega
    exact Nat.le_of_lt_succ addr.isLt
  rw [busRead_overlay hover, State.logEvent_events, List.length_append, List.length_singleton]

theorem busRead16_events_length {s : State} (h : s.config.overlays = [⟨0x0000, 0xFFFF⟩]) (addr : Word) :
    (busRead16 addr s).2.events.length = s.events.length + 2 := by
  rw [busRead16, busRead_events_length (by rw [busRead_config, h]), busRead_events_length h]

theorem fetchOperandBytes_events_length {s : State} (h : s.config.overlays = [⟨0x0000, 0xFFFF⟩]) (mode : Mode) :
    (fetchOperandBytes mode.operandLength s).2.events.length = s.events.length + mode.operandLength := by
  have hfetch {u : State} (hu : u.config.overlays = [⟨0x0000, 0xFFFF⟩]) :
      (fetchByte u).2.events.length = u.events.length + 1 := busRead_events_length hu u.pc
  obtain hlen | hlen | hlen := mode.operandLength_cases <;> rw [hlen]
  · rfl
  · exact hfetch h
  · have hconfig : (fetchByte s).2.config.overlays = [⟨0x0000, 0xFFFF⟩] := by rw [fetchByte_frame, h]
    exact (hfetch hconfig).trans (congrArg (· + 1) (hfetch h))

/-- The reads address computation takes: two for a pointer, none otherwise. -/
def pointerReads : Mode → Nat
  | .indirect | .indirectX | .indirectY => 2
  | _ => 0

theorem effAddr_events_length {s : State} (h : s.config.overlays = [⟨0x0000, 0xFFFF⟩]) (o : Operand) :
    (effAddr o s).2.events.length = s.events.length + pointerReads o.mode := by
  cases o
  case ind | indX | indY => exact busRead16_events_length h _
  all_goals rfl

/-- Settles O14: one read per operand byte, two more for a pointer; an immediate's byte is not read. -/
theorem resolverReadCounts : Obligations.ResolverReadCounts := by
  unfold Obligations.ResolverReadCounts
  intro mode s hover
  by_cases himm : mode = .immediate
  · rw [himm]
    rfl
  · have hconfig : (fetchOperand mode s).2.config.overlays = [⟨0x0000, 0xFFFF⟩] := by
      rw [fetchOperand, fetchOperandBytes_frame, hover]
    have hmode : (fetchOperand mode s).1.mode = mode := Operand.ofBytes_mode mode _ _
    have hfetch : (fetchOperand mode s).2.events.length = s.events.length + mode.operandLength :=
      fetchOperandBytes_events_length hover mode
    rw [resolve_eq_effAddr himm, effAddr_events_length hconfig, hmode, hfetch, Nat.add_assoc]
    cases mode
    case immediate => exact absurd rfl himm
    all_goals rfl

end Sys2Proof.Machine
end

section
/-! PROOFS. Cycle: the fetch of an instruction of one, two or three bytes, KIL and the undocumented bytes
(spec/40_dispatcher.md R142 to R149), and a store fetched again (spec/20_memory.md R91). -/

namespace Sys2Proof.Machine

theorem State.setPc_setPc (s : State) (v w : Word) : (s.setPc v).setPc w = s.setPc w := rfl

/-- One operand byte: a second read, at the next address. -/
theorem fetchInstr_of_operandLength_one {s : State} (hlen : (opcode (busRead s.pc s).1).2.operandLength = 1) :
    let r1 := busRead s.pc s
    let r2 := busRead (s.pc + 1) r1.2
    fetchInstr s = (assemble (opcode r1.1) r1.1 r2.1 0, r2.2.setPc (s.pc + 2)) := by
  have hpc : s.pc + 1 + 1 = s.pc + 2 := BitVec.add_assoc s.pc 1 1
  simp only [fetchInstr, fetchByte, hlen, fetchOperandBytes, State.setPc_pc, busRead_setPc, State.setPc_setPc, hpc]

/-- Two operand bytes: a second and a third read, at the next two addresses. -/
theorem fetchInstr_of_operandLength_two {s : State} (hlen : (opcode (busRead s.pc s).1).2.operandLength = 2) :
    let r1 := busRead s.pc s
    let r2 := busRead (s.pc + 1) r1.2
    let r3 := busRead (s.pc + 2) r2.2
    fetchInstr s = (assemble (opcode r1.1) r1.1 r2.1 r3.1, r3.2.setPc (s.pc + 3)) := by
  have hpc : s.pc + 1 + 1 = s.pc + 2 := BitVec.add_assoc s.pc 1 1
  have hpc' : s.pc + 2 + 1 = s.pc + 3 := BitVec.add_assoc s.pc 2 1
  simp only [fetchInstr, fetchByte, hlen, fetchOperandBytes, State.setPc_pc, busRead_setPc, State.setPc_setPc, hpc,
    hpc']

/-- Bytes that decode with none left over are an opcode byte and the operand bytes of its mode. -/
theorem decode_cons_eq_ok_nil {op : Byte} {operands : List Byte} {i : Instr}
    (h : decode (op :: operands) = .ok (i, [])) :
    (opcode op).2.operandLength = operands.length ∧
      i = assemble (opcode op) op (operands.getD 0 0) (operands.getD 1 0) := by
  obtain ⟨op', operands', hbytes, hlen, hi⟩ := decode_eq_ok_iff.mp h
  rw [List.append_nil] at hbytes
  obtain ⟨rfl, rfl⟩ := List.cons.inj hbytes
  exact ⟨hlen.symm, hi⟩

/-- Settles O17: the decoded length says which bytes the fetch reads; the step is then `exec` past them. -/
theorem stepRunsDecodedInstruction : Obligations.StepRunsDecodedInstruction := by
  unfold Obligations.StepRunsDecodedInstruction
  intro s i hrun hpc r1 r2 r3
  rw [step_of_pc_ne_zero hrun hpc]
  refine ⟨?one, ?two, ?three⟩
  case one =>
    intro hdec
    obtain ⟨hlen, rfl⟩ := decode_cons_eq_ok_nil hdec
    rw [fetchInstr_of_operandLength_zero rfl hlen]
    rfl
  case two =>
    intro hdec
    obtain ⟨hlen, rfl⟩ := decode_cons_eq_ok_nil hdec
    rw [fetchInstr_of_operandLength_one hlen]
    rfl
  case three =>
    intro hdec
    obtain ⟨hlen, rfl⟩ := decode_cons_eq_ok_nil hdec
    rw [fetchInstr_of_operandLength_two hlen]
    rfl

/-- The step of a one-byte instruction in a plain cell. -/
theorem step_of_one_byte {s : State} {op : Byte} {i : Instr} (hrun : s.halted = false) (hpc : s.pc ≠ 0x0000)
    (hread : busRead s.pc s = (op, s)) (hdec : decode [op] = .ok (i, [])) : step s = exec i (s.setPc (s.pc + 1)) := by
  have hstep := (stepRunsDecodedInstruction s i hrun hpc).1
  rw [hread] at hstep
  exact hstep hdec

theorem exec_kil (s : State) : exec .kil s = .next (haltProcessor s) := rfl

theorem word_sub_one_eq (w : Word) : w - 1 = BitVec.ofInt 16 (w.toNat - 1) := by
  rw [Int.sub_eq_add_neg, BitVec.ofInt_add, BitVec.ofInt_natCast, BitVec.ofNat_toNat, BitVec.setWidth_eq,
    BitVec.sub_eq_add_neg]
  rfl

/-- Settles O20: the cycle is the fetch of one byte, after which `haltProcessor` puts PC back. -/
theorem kilHaltsInPlace : Obligations.KilHaltsInPlace := by
  unfold Obligations.KilHaltsInPlace
  refine ⟨?cycle, ?meaning, rfl⟩
  case cycle =>
    intro s hrun hpc hop
    have hdec : decode [(busRead s.pc s).1] = .ok (.kil, []) := by
      rw [hop]
      rfl
    have hback : s.pc + 1 - 1 = s.pc := BitVec.add_sub_cancel s.pc 1
    rw [(stepRunsDecodedInstruction s .kil hrun hpc).1 hdec, exec_kil, busRead_frame]
    simp only [haltProcessor, State.setPc, State.halt, hback]
  case meaning =>
    intro s
    rw [exec_kil, haltProcessor, word_sub_one_eq]
    rfl

theorem exec_undoc (op : Byte) (s : State) :
    exec (.undoc op) s = .next (resolve (undocMode s.config.undocModes op) s).2 := rfl

theorem undocMode_default {modes : List (Byte × Mode)} {op : Byte} (h : ∀ e ∈ modes, e.1 ≠ op) :
    undocMode modes op = .implicit := by
  have hnone : modes.find? (fun e => e.1 == op) = none :=
    List.find?_eq_none.mpr fun e he => by simpa using h e he
  rw [undocMode, hnone]

/-- Settles O21: the resolver's frame and PC advance; implicit resolves to nothing. -/
theorem undocumentedByteIsNoOp : Obligations.UndocumentedByteIsNoOp := by
  unfold Obligations.UndocumentedByteIsNoOp
  refine ⟨fun op s => ⟨?resolver, ?default⟩, fun op => rfl⟩
  case resolver =>
    intro mode
    rw [exec_undoc, resolve_frame, resolve_pc]
  case default =>
    intro hnone
    rw [exec_undoc, undocMode_default hnone]
    rfl

theorem exec_sta (o : Operand) (s : State) : exec (.sta o) s = .next (storeOperand o s.a s) := rfl

/-- Settles O24: the fetch reads the cell just written, and the byte there decodes with no operand. -/
theorem storeIsSeenByFetch : Obligations.StoreIsSeenByFetch := by
  unfold Obligations.StoreIsSeenByFetch
  intro s target i hwf hrun hplain htarget hdec
  have hstore : storeOperand (.abs target) s.a s = s.setMem (s.mem.write target.toNat s.a) := busWrite_plain hplain
  refine ⟨_, (exec_sta _ s).trans (congrArg _ hstore), ?_⟩
  let u := (s.setMem (s.mem.write target.toNat s.a)).setPc target
  have hread : busRead target u = (s.a, u) := by
    rw [busRead_plain (s := u) hplain]
    exact Prod.ext ((Memory.read_write hwf target.isLt s.a target.toNat).trans (if_pos rfl)) rfl
  exact step_of_one_byte (s := u) hrun htarget hread hdec

end Sys2Proof.Machine
end

section
/-! PROOFS. LoadStore: the loads and the logic instructions as one read and one load of a register, the stores as one
write (spec/42_load_store.md, spec/43_arith_logic.md R213 to R215). -/

namespace Sys2Proof.Machine

theorem exec_lda (o : Operand) (s : State) :
    exec (.lda o) s = .next (loadA (loadOperand o s).1 (loadOperand o s).2) := rfl

theorem exec_ldx (o : Operand) (s : State) :
    exec (.ldx o) s = .next (loadX (loadOperand o s).1 (loadOperand o s).2) := rfl

theorem exec_ldy (o : Operand) (s : State) :
    exec (.ldy o) s = .next (loadY (loadOperand o s).1 (loadOperand o s).2) := rfl

theorem exec_and (o : Operand) (s : State) :
    exec (.and o) s = .next (loadA (s.a &&& (loadOperand o s).1) (loadOperand o s).2) := rfl

theorem exec_ora (o : Operand) (s : State) :
    exec (.ora o) s = .next (loadA (s.a ||| (loadOperand o s).1) (loadOperand o s).2) := rfl

theorem exec_eor (o : Operand) (s : State) :
    exec (.eor o) s = .next (loadA (s.a ^^^ (loadOperand o s).1) (loadOperand o s).2) := rfl

/-- A load of A after the operand's reads, which change the record alone. -/
theorem loadA_loadOperand (v : Byte) (o : Operand) (s : State) :
    loadA v (loadOperand o s).2 = { s with a := v, flags := s.flags.zn v, events := (loadOperand o s).2.events } := by
  rw [loadA_eq, loadOperand_frame]

/-- Settles O22: the register, Z and N of the byte read, after reads that change the record alone. -/
theorem loadsSetRegisterAndZN : Obligations.LoadsSetRegisterAndZN := by
  unfold Obligations.LoadsSetRegisterAndZN
  refine ⟨fun o s => ⟨?lda, ?ldx, ?ldy⟩, rfl, rfl, rfl⟩
  case lda => rw [exec_lda, loadA_loadOperand]
  case ldx => rw [exec_ldx, loadX_eq, loadOperand_frame]
  case ldy => rw [exec_ldy, loadY_eq, loadOperand_frame]

/-- Settles O29: a load of A with the byte combined. -/
theorem logicSetsAAndZN : Obligations.LogicSetsAAndZN := by
  unfold Obligations.LogicSetsAAndZN
  refine ⟨fun o s => ⟨?and, ?ora, ?eor⟩, rfl, rfl, rfl⟩
  case and => rw [exec_and, loadA_loadOperand]
  case ora => rw [exec_ora, loadA_loadOperand]
  case eor => rw [exec_eor, loadA_loadOperand]

theorem exec_stx (o : Operand) (s : State) : exec (.stx o) s = .next (storeOperand o s.x s) := rfl

theorem exec_sty (o : Operand) (s : State) : exec (.sty o) s = .next (storeOperand o s.y s) := rfl

/-- With an effective address a store is one write there (R175): only the byte and the record change. -/
theorem storeOperand_storesAt {o : Operand} {s : State} {ea : Word} (hwf : s.mem.wf = true)
    (hea : (effAddr o s).1 = some ea) (v : Byte) :
    let t := storeOperand o v s
    t = { s with mem := t.mem, events := t.events } ∧ s.storesAt t ea v (effAddr o s).2.events := by
  intro t
  have ht : t = busWrite ea v (effAddr o s).2 := by simp only [t, storeOperand, hea, storeEa_some]
  constructor
  · rw [ht, busWrite_frame, effAddr_frame]
  · rw [ht]
    exact busWrite_storesAt hwf (effAddr_mem o s) (effAddr_config o s) ea v

/-- Settles O23: each of the three is the write of its register through the operand. -/
theorem storesWriteOneByte : Obligations.StoresWriteOneByte := by
  unfold Obligations.StoresWriteOneByte
  refine ⟨fun o s ea hwf hea => ⟨?sta, ?stx, ?sty⟩, rfl, rfl, rfl⟩
  case sta => exact ⟨_, exec_sta o s, storeOperand_storesAt hwf hea s.a⟩
  case stx => exact ⟨_, exec_stx o s, storeOperand_storesAt hwf hea s.x⟩
  case sty => exact ⟨_, exec_sty o s, storeOperand_storesAt hwf hea s.y⟩

end Sys2Proof.Machine
end

section
/-! PROOFS. Arith: ADC and SBC as numbers, V as signed overflow, and the compares (spec/43_arith_logic.md R210 to R217,
spec/45_compare_incdec.md R260 to R263). -/

namespace Sys2Proof.Machine

theorem exec_adc (o : Operand) (s : State) :
    exec (.adc o) s = .next (addToA (loadOperand o s).1 (loadOperand o s).2) := rfl

theorem exec_sbc (o : Operand) (s : State) :
    exec (.sbc o) s = .next (addToA (~~~(loadOperand o s).1) (loadOperand o s).2) := rfl

theorem adcByte_eq (a m : Byte) (c : Bool) : adcByte a m c = BitVec.ofNat 8 (adcSum a m c % 256) := by
  apply BitVec.eq_of_toNat_eq
  rw [adcByte, BitVec.toNat_ofNat, BitVec.toNat_ofNat]
  omega

/-- V of ADC: the operands have one sign and the result the other. -/
def adcOverflow (a m : Byte) (c : Bool) : Bool := (a.msb == m.msb) && (a.msb != (adcByte a m c).msb)

theorem adcOverflow_eq (a m : Byte) (c : Bool) : adcOverflow a m c =
    decide (a.getLsbD 7 = m.getLsbD 7 ∧ a.getLsbD 7 ≠ (adcByte a m c).getLsbD 7) := by
  have hmsb (v : Byte) : v.msb = v.getLsbD 7 := BitVec.msb_eq_getLsbD_last v
  rw [adcOverflow, hmsb, hmsb, hmsb, Bool.eq_iff_iff]
  simp

theorem adcFlags_eq (a m : Byte) (f : Flags) : adcFlags a m f =
    { f with c := decide (255 < adcSum a m f.c), v := adcOverflow a m f.c }.zn (adcByte a m f.c) :=
  setZN_eq_zn _ _

/-- Adding to A after the operand's reads: the flags of ADC, and the record alone beside A. -/
theorem addToA_loadOperand (m : Byte) (o : Operand) (s : State) :
    addToA m (loadOperand o s).2 =
      { s with
        a := adcByte s.a m s.flags.c, flags := adcFlags s.a m s.flags, events := (loadOperand o s).2.events } := by
  rw [addToA, loadOperand_frame]
  rfl

theorem byte_not_toNat (m : Byte) : (~~~m).toNat = 255 - m.toNat := BitVec.toNat_not

theorem byte_not_eq (m : Byte) : ~~~m = BitVec.ofNat 8 (255 - m.toNat) := by
  apply BitVec.eq_of_toNat_eq
  rw [byte_not_toNat, BitVec.toNat_ofNat]
  omega

/-- The next state of an addition to A in the statements' words. -/
theorem addToA_loadOperand_eq (m : Byte) (o : Operand) (s : State) :
    let sum := s.a.toNat + m.toNat + s.flags.c.toNat
    let r := BitVec.ofNat 8 (sum % 256)
    addToA m (loadOperand o s).2 = { s with
      a := r
      flags := { s.flags with
        c := decide (255 < sum)
        v := decide (s.a.getLsbD 7 = m.getLsbD 7 ∧ s.a.getLsbD 7 ≠ r.getLsbD 7) }.zn r
      events := (loadOperand o s).2.events } := by
  rw [addToA_loadOperand, adcFlags_eq, adcOverflow_eq, adcByte_eq]
  rfl

/-- Settles O25: the addition of the byte read. -/
theorem adcResultAndFlags : Obligations.AdcResultAndFlags := by
  unfold Obligations.AdcResultAndFlags
  refine ⟨fun o s => ?_, rfl⟩
  rw [exec_adc, addToA_loadOperand_eq]

/-- Settles O26: the addition of the complement of the byte read, which is 0xFF minus it. -/
theorem sbcResultAndFlags : Obligations.SbcResultAndFlags := by
  unfold Obligations.SbcResultAndFlags
  refine ⟨fun o s => ?_, rfl⟩
  rw [exec_sbc, byte_not_eq, addToA_loadOperand_eq]

/-- V of ADC says that the exact signed sum does not fit a byte. -/
theorem adcOverflow_iff (a m : Byte) (c : Bool) : adcOverflow a m c = true ↔
    a.toInt + m.toInt + c.toNat < -128 ∨ 127 < a.toInt + m.toInt + c.toNat := by
  have hc : c.toNat ≤ 1 := Bool.toNat_le c
  have ha := a.isLt
  have hm := m.isLt
  have hr : (adcByte a m c).toNat = (a.toNat + m.toNat + c.toNat) % 256 := BitVec.toNat_ofNat _ _
  simp only [adcOverflow, BitVec.msb_eq_decide, BitVec.toInt_eq_toNat_cond, hr, Bool.and_eq_true, beq_iff_eq,
    bne_iff_ne, ne_eq, decide_eq_decide]
  split <;> split <;> omega

/-- Subtracting with borrow is adding the complement: as signed numbers the complement is -m - 1. -/
theorem byte_not_toInt (m : Byte) : (~~~m).toInt = -m.toInt - 1 := by
  have hm := m.isLt
  rw [BitVec.toInt_eq_toNat_cond, BitVec.toInt_eq_toNat_cond, byte_not_toNat]
  split <;> split <;> omega

/-- A of SBC: A - m - (1 - C) modulo 256. -/
theorem adcByte_not_eq (a m : Byte) (c : Bool) :
    adcByte a (~~~m) c = BitVec.ofInt 8 (a.toNat - m.toNat - (1 - c.toNat)) := by
  have hm := m.isLt
  apply BitVec.eq_of_toNat_eq
  rw [adcByte, adcSum, byte_not_toNat, BitVec.toNat_ofNat, BitVec.toNat_ofInt]
  omega

/-- C of SBC: no borrow. -/
theorem adcSum_not_carry_iff (a m : Byte) (c : Bool) :
    255 < adcSum a (~~~m) c ↔ (0 : Int) ≤ a.toNat - m.toNat - (1 - c.toNat) := by
  have hm := m.isLt
  rw [adcSum, byte_not_toNat]
  omega

/-- Settles O27: SBC adds the complement, 255 - m as a number and -m - 1 as a signed one. -/
theorem sbcSubtractsAndVIsSignedOverflow : Obligations.SbcSubtractsAndVIsSignedOverflow := by
  unfold Obligations.SbcSubtractsAndVIsSignedOverflow
  intro o s m
  refine ⟨⟨_, exec_sbc o s, ?_⟩, ⟨_, exec_adc o s, ?_⟩⟩ <;> rw [addToA_loadOperand, adcFlags_eq]
  · refine ⟨adcByte_not_eq s.a m s.flags.c, ?carry, ?overflow⟩
    case carry => exact decide_eq_true_iff.trans (adcSum_not_carry_iff s.a m s.flags.c)
    case overflow =>
      refine (adcOverflow_iff s.a (~~~m) s.flags.c).trans ?_
      rw [byte_not_toInt]
      omega
  · exact adcOverflow_iff s.a m s.flags.c

/-- Adding a byte without carry and then its complement with carry gives A back. -/
theorem adcByte_not_adcByte (a m : Byte) : adcByte (adcByte a m false) (~~~m) true = a := by
  have ha := a.isLt
  have hm := m.isLt
  apply BitVec.eq_of_toNat_eq
  simp only [adcByte, adcSum, BitVec.toNat_ofNat, byte_not_toNat, Bool.toNat_false, Bool.toNat_true]
  omega

/-- Settles O28: CLC and SEC fix the carries, and D is not looked at. -/
theorem adcThenSbcRestoresA : Obligations.AdcThenSbcRestoresA := by
  unfold Obligations.AdcThenSbcRestoresA
  exact fun s m => ⟨_, rfl, adcByte_not_adcByte s.a m⟩

theorem exec_cmp (o : Operand) (s : State) :
    exec (.cmp o) s = .next ((loadOperand o s).2.setFlags (compareFlags s.a (loadOperand o s).1 s.flags)) := rfl

theorem exec_cpx (o : Operand) (s : State) :
    exec (.cpx o) s = .next ((loadOperand o s).2.setFlags (compareFlags s.x (loadOperand o s).1 s.flags)) := rfl

theorem exec_cpy (o : Operand) (s : State) :
    exec (.cpy o) s = .next ((loadOperand o s).2.setFlags (compareFlags s.y (loadOperand o s).1 s.flags)) := rfl

theorem byte_sub_eq (r m : Byte) : r - m = BitVec.ofInt 8 (r.toNat - m.toNat) := by
  have hm := m.isLt
  apply BitVec.eq_of_toNat_eq
  rw [BitVec.toNat_sub, BitVec.toNat_ofInt]
  omega

theorem compareFlags_eq (r m : Byte) (f : Flags) : compareFlags r m f =
    { f with
      c := decide (m.toNat ≤ r.toNat), z := decide (r = m), n := (BitVec.ofInt 8 (r.toNat - m.toNat)).getLsbD 7 } := by
  rw [← byte_sub_eq]
  have hn : (r - m).msb = (r - m).getLsbD 7 := BitVec.msb_eq_getLsbD_last _
  rw [compareFlags, hn]
  rfl

/-- Settles O35: the flags of the compare, after reads that change the record alone. -/
theorem comparesSetCZN : Obligations.ComparesSetCZN := by
  unfold Obligations.ComparesSetCZN
  refine ⟨fun o s => ⟨?cmp, ?cpx, ?cpy⟩, rfl, rfl, rfl⟩
  case cmp => rw [exec_cmp, compareFlags_eq, loadOperand_frame]; rfl
  case cpx => rw [exec_cpx, compareFlags_eq, loadOperand_frame]; rfl
  case cpy => rw [exec_cpy, compareFlags_eq, loadOperand_frame]; rfl

end Sys2Proof.Machine
end

section
/-! PROOFS. Rotate: ROL and ROR as numbers (spec/44_shift_rotate.md R242, R243), and both as rotations of the nine
bits of C and A. -/

namespace Sys2Proof.Machine

theorem rolByte_eq (v : Byte) (c : Bool) : rolByte v c = BitVec.ofNat 8 ((2 * v.toNat + c.toNat) % 256) := by
  have hdisjoint : v <<< 1 &&& (BitVec.ofBool c).setWidth 8 = 0 := by
    ext i hi
    simp only [BitVec.getElem_and, BitVec.getElem_shiftLeft, BitVec.getElem_setWidth, BitVec.getLsbD_ofBool]
    by_cases h : i = 0 <;> simp [h]
  apply BitVec.eq_of_toNat_eq
  rw [rolByte, ← BitVec.add_eq_or_of_and_eq_zero _ _ hdisjoint, BitVec.toNat_add, BitVec.toNat_shiftLeft,
    BitVec.toNat_setWidth, BitVec.toNat_ofBool, BitVec.toNat_ofNat, Nat.shiftLeft_eq]
  have hc : c.toNat ≤ 1 := Bool.toNat_le c
  omega

theorem rorByte_eq (v : Byte) (c : Bool) : rorByte v c = BitVec.ofNat 8 (v.toNat / 2 + 128 * c.toNat) := by
  have hdisjoint : v >>> 1 &&& (BitVec.ofBool c).setWidth 8 <<< 7 = 0 := by
    ext i hi
    by_cases h : i < 7
    · simp [h]
    · obtain rfl : i = 7 := by omega
      simp
  apply BitVec.eq_of_toNat_eq
  rw [rorByte, ← BitVec.add_eq_or_of_and_eq_zero _ _ hdisjoint, BitVec.toNat_add, BitVec.toNat_ushiftRight,
    BitVec.toNat_shiftLeft, BitVec.toNat_setWidth, BitVec.toNat_ofBool, BitVec.toNat_ofNat, Nat.shiftLeft_eq,
    Nat.shiftRight_eq_div_pow]
  have hc : c.toNat ≤ 1 := Bool.toNat_le c
  omega

theorem exec_rol (o : Operand) (s : State) : exec (.rol o) s =
    .next (modifyOperand o (fun v => rolByte v s.flags.c) (fun v => shiftFlags v.msb (rolByte v s.flags.c)) s) := rfl

theorem exec_ror (o : Operand) (s : State) : exec (.ror o) s =
    .next (modifyOperand o (fun v => rorByte v s.flags.c)
      (fun v => shiftFlags (v.getLsbD 0) (rorByte v s.flags.c)) s) := rfl

/-- Settles O33: ROL and ROR are read-modify-writes with the old C fed in, C the bit shifted out. -/
theorem rotatesResultAndCarry : Obligations.RotatesResultAndCarry := by
  unfold Obligations.RotatesResultAndCarry
  refine ⟨?rol, ?ror, rfl, rfl⟩
  case rol =>
    apply shiftsOperand_of_exec
    intro o s
    have hmsb (v : Byte) : v.msb = v.getLsbD 7 := BitVec.msb_eq_getLsbD_last v
    simp only [exec_rol, rolByte_eq, hmsb]
  case ror =>
    apply shiftsOperand_of_exec
    intro o s
    simp only [exec_ror, rorByte_eq]

/-- The nine bits a rotate of A turns: C above the bits of A. -/
def carryAndA (s : State) : BitVec 9 := BitVec.cons s.flags.c s.a

/-- ROL of A turns the nine bits by one place to the left. -/
theorem carryAndA_rol {s t : State} (h : exec (.rol .acc) s = .next t) : carryAndA t = (carryAndA s).rotateLeft 1 := by
  obtain rfl := Host.Outcome.next.inj h
  change BitVec.cons s.a.msb (rolByte s.a s.flags.c) = (BitVec.cons s.flags.c s.a).rotateLeft 1
  ext i hi
  simp only [BitVec.getElem_rotateLeft, BitVec.getElem_cons, rolByte]
  interval_cases i <;> simp [BitVec.msb_eq_getLsbD_last]

theorem carryAndA_ror {s t : State} (h : exec (.ror .acc) s = .next t) : carryAndA t = (carryAndA s).rotateRight 1 := by
  obtain rfl := Host.Outcome.next.inj h
  change BitVec.cons (s.a.getLsbD 0) (rorByte s.a s.flags.c) = (BitVec.cons s.flags.c s.a).rotateRight 1
  ext i hi
  simp only [BitVec.getElem_rotateRight, BitVec.getElem_cons, rorByte]
  interval_cases i <;> simp

/-- An instruction repeated, each time turning a value of the state by `turn`, turns it as often. -/
theorem execAll_replicate {α : Type} {i : Instr} {value : State → α} {turn : α → α}
    (h : ∀ {s t}, exec i s = .next t → value t = turn (value s)) (n : Nat) (s : State) :
    ∃ t, execAll (List.replicate n i) s = .next t ∧ value t = turn^[n] (value s) := by
  induction n generalizing s with
  | zero => exact ⟨s, rfl, rfl⟩
  | succ n ih =>
    obtain ⟨u, hu⟩ := exec_exists_next i s
    obtain ⟨t, ht, hvalue⟩ := ih u
    refine ⟨t, ?_, ?_⟩
    · rw [List.replicate_succ, execAll, hu]
      exact ht
    · rw [hvalue, h hu, Function.iterate_succ_apply]

/-- One more turn of nine bits by one place. -/
theorem rotateLeft_rotateLeft_one (v : BitVec 9) (n : Nat) : (v.rotateLeft n).rotateLeft 1 = v.rotateLeft (n + 1) := by
  ext i hi
  simp only [BitVec.getElem_rotateLeft]
  split_ifs <;> (congr 1; omega)

theorem rotateRight_rotateRight_one (v : BitVec 9) (n : Nat) :
    (v.rotateRight n).rotateRight 1 = v.rotateRight (n + 1) := by
  ext i hi
  simp only [BitVec.getElem_rotateRight]
  split_ifs <;> (congr 1; omega)

/-- Turned as often as there are bits, they are as they were. -/
theorem rotateLeft_nine (v : BitVec 9) : v.rotateLeft 9 = v := by
  ext i hi
  simp [BitVec.getElem_rotateLeft]

theorem rotateRight_nine (v : BitVec 9) : v.rotateRight 9 = v := by
  ext i hi
  simp [BitVec.getElem_rotateRight, hi]

theorem iterate_rotateLeft_nine (v : BitVec 9) : (fun v : BitVec 9 => v.rotateLeft 1)^[9] v = v := by
  simp only [Function.iterate_succ_apply', Function.iterate_zero_apply, rotateLeft_rotateLeft_one]
  exact rotateLeft_nine v

theorem iterate_rotateRight_nine (v : BitVec 9) : (fun v : BitVec 9 => v.rotateRight 1)^[9] v = v := by
  simp only [Function.iterate_succ_apply', Function.iterate_zero_apply, rotateRight_rotateRight_one]
  exact rotateRight_nine v

theorem a_and_c_of_carryAndA {s t : State} (h : carryAndA t = carryAndA s) : t.a = s.a ∧ t.flags.c = s.flags.c := by
  have hmsb := congrArg BitVec.msb h
  have hlow := congrArg (BitVec.setWidth 8) h
  simp only [carryAndA, BitVec.msb_cons, BitVec.setWidth_cons] at hmsb hlow
  exact ⟨hlow, hmsb⟩

/-- Settles O34: nine turns of the nine bits by one place. -/
theorem nineRotatesRestore : Obligations.NineRotatesRestore := by
  unfold Obligations.NineRotatesRestore
  intro s
  constructor
  · obtain ⟨t, ht, hvalue⟩ := execAll_replicate (turn := fun v : BitVec 9 => v.rotateLeft 1) carryAndA_rol 9 s
    exact ⟨t, ht, a_and_c_of_carryAndA (hvalue.trans (iterate_rotateLeft_nine _))⟩
  · obtain ⟨t, ht, hvalue⟩ := execAll_replicate (turn := fun v : BitVec 9 => v.rotateRight 1) carryAndA_ror 9 s
    exact ⟨t, ht, a_and_c_of_carryAndA (hvalue.trans (iterate_rotateRight_nine _))⟩

end Sys2Proof.Machine
end

section
/-! PROOFS. IncDecMemory and branches: INC and DEC as read-modify-writes (spec/45_compare_incdec.md R264, R265), the
branches and JMP (spec/46_branch_jump.md R290 to R299). -/

namespace Sys2Proof.Machine

theorem exec_inc (o : Operand) (s : State) :
    exec (.inc o) s = .next (modifyOperand o (fun v => v + 1) (fun v => setZN (v + 1)) s) := rfl

theorem exec_dec (o : Operand) (s : State) :
    exec (.dec o) s = .next (modifyOperand o (fun v => v - 1) (fun v => setZN (v - 1)) s) := rfl

/-- A read-modify-write whose flags are Z and N of the byte written. -/
theorem modifyOperand_zn {o : Operand} {s : State} {ea : Word} (hwf : s.mem.wf = true)
    (hea : (effAddr o s).1 = some ea) (res : Byte → Byte) :
    let m := busRead ea (effAddr o s).2
    let t := modifyOperand o res (fun v => setZN (res v)) s
    t = { s with flags := s.flags.zn (res m.1), mem := t.mem, events := t.events } ∧
      s.storesAt t ea (res m.1) m.2.events := by
  have h := modifyOperand_storesAt hwf hea res (fun v => setZN (res v))
  simp only [setZN_eq_zn] at h ⊢
  exact h

/-- Settles O36: the byte plus or minus 1 as a number. -/
theorem incDecMemory : Obligations.IncDecMemory := by
  unfold Obligations.IncDecMemory
  refine ⟨?meaning, rfl, rfl⟩
  intro o s ea hwf hea m up down
  constructor
  · refine ⟨_, exec_inc o s, ?_⟩
    have hup : m.1 + 1 = up := byte_add_one_eq m.1
    rw [← hup]
    exact modifyOperand_zn hwf hea (fun v => v + 1)
  · refine ⟨_, exec_dec o s, ?_⟩
    have hdown : m.1 - 1 = down := byte_sub_one_eq m.1
    rw [← hdown]
    exact modifyOperand_zn hwf hea (fun v => v - 1)

/-- An instruction that is a branch on `cond` is one as the statements say it. -/
theorem branchesWhen_of_exec {instr : Byte → Instr} {op : Byte} {cond : Flags → Bool}
    (hexec : ∀ off s, exec (instr off) s = .next (branchIf (cond s.flags) off s))
    (hencode : ∀ off, encode (instr off) = [op, off]) : BranchesWhen instr op cond := by
  refine ⟨fun off s => ?_, hencode⟩
  rw [hexec, branchIf_eq, word_add_sext16_eq]
  split <;> rfl

/-- Settles O38: which flag and which value each branch tests. -/
theorem branchesTakenOnTheirFlag : Obligations.BranchesTakenOnTheirFlag := by
  unfold Obligations.BranchesTakenOnTheirFlag
  refine ⟨?bcc, ?bcs, ?beq, ?bne, ?bmi, ?bpl, ?bvc, ?bvs⟩
  all_goals exact branchesWhen_of_exec (fun off s => rfl) (fun off => rfl)

theorem exec_jmp (o : Operand) (s : State) : exec (.jmp o) s = .next (jumpTo o s) := rfl

theorem jumpTo_abs (w : Word) (s : State) : jumpTo (.abs w) s = s.setPc w := rfl

theorem jumpTo_ind (w : Word) (s : State) : jumpTo (.ind w) s = (busRead16 w s).2.setPc (busRead16 w s).1 := rfl

/-- Settles O39: a jump to the operand word, or to the word read at the pointer. -/
theorem jmpSetsPc : Obligations.JmpSetsPc := by
  unfold Obligations.JmpSetsPc
  refine ⟨fun w s => ⟨?absolute, ?indirect⟩, rfl, rfl⟩
  case absolute => rw [exec_jmp, jumpTo_abs]; rfl
  case indirect => rw [exec_jmp, jumpTo_ind, busRead16_eq, word_add_one_eq]; rfl

end Sys2Proof.Machine
end

section
/-! PROOFS. Stack: the stack cell of S, pushes and pulls as accesses of it, the packed status byte (spec/47_stack.md,
spec/10_state.md R44, R45), and PHA, PHP, PLA and PLP. -/

namespace Sys2Proof.Machine

theorem stackCell_toNat (sp : Byte) : (stackCell sp).toNat = 256 + sp.toNat := by
  have hsp := sp.isLt
  rw [stackCell, BitVec.toNat_ofNat]
  omega

/-- The stack page's high byte and S as the low byte, as a sum. -/
theorem stackAddress_eq (sp : Byte) : stackAddress sp = stackCell sp := by
  apply BitVec.eq_of_toNat_eq
  have hsp : (zext16 sp).toNat = sp.toNat := BitVec.toNat_setWidth_of_le (by decide)
  rw [stackAddress, BitVec.toNat_or, hsp, stackCell_toNat]
  exact (Nat.shiftLeft_add_eq_or_of_lt sp.isLt 1).symm

/-- S does not reach the bus. -/
theorem busRead_setSp (addr : Word) (s : State) (sp : Byte) :
    busRead addr (s.setSp sp) = ((busRead addr s).1, (busRead addr s).2.setSp sp) := by
  cases h : overlayAt s.config.overlays addr with
  | none => rw [busRead_plain (s := s) h, busRead_plain (by exact h)]; rfl
  | some k => rw [busRead_overlay (s := s) h, busRead_overlay (k := k) (by exact h)]; rfl

theorem busWrite_setSp (addr : Word) (v : Byte) (s : State) (sp : Byte) :
    busWrite addr v (s.setSp sp) = (busWrite addr v s).setSp sp := by
  cases h : overlayAt s.config.overlays addr with
  | none => rw [busWrite_plain (s := s) h, busWrite_plain (by exact h)]; rfl
  | some k => rw [busWrite_overlay (s := s) h, busWrite_overlay (k := k) (by exact h)]; rfl

theorem push_eq (v : Byte) (s : State) : push v s = (busWrite (stackCell s.sp) v s).setSp (s.sp - 1) := by
  rw [push, stackAddress_eq]

theorem pull_eq (s : State) :
    pull s = ((busRead (stackCell (s.sp + 1)) s).1, (busRead (stackCell (s.sp + 1)) s).2.setSp (s.sp + 1)) := by
  rw [pull, stackAddress_eq, busRead_setSp]

theorem byte_add_one_add_one (b : Byte) : b + 1 + 1 = b + 2 := BitVec.add_assoc b 1 1

/-- Two reads, too, change the record alone. -/
theorem busRead_busRead_frame (addr addr' : Word) (s : State) :
    (busRead addr' (busRead addr s).2).2 = { s with events := (busRead addr' (busRead addr s).2).2.events } := by
  rw [busRead_frame addr', busRead_frame addr]

/-- A word pull: the low byte at the next stack cell, the high byte at the one after it, as a sum (R313). -/
theorem pull16_eq (s : State) :
    let lo := busRead (stackCell (s.sp + 1)) s
    let hi := busRead (stackCell (s.sp + 2)) lo.2
    pull16 s = (wordOf lo.1 hi.1, hi.2.setSp (s.sp + 2)) := by
  intro lo hi
  simp only [pull16, pull_eq, State.setSp_sp, busRead_setSp, byte_add_one_add_one, wordLE_eq_wordOf]
  rfl

/-- One push is one write of the stack cell of S (R310). -/
theorem push_storesAt {s : State} (hwf : s.mem.wf = true) (v : Byte) :
    let t := push v s
    t = { s with sp := BitVec.ofNat 8 (s.sp.toNat + 255), mem := t.mem, events := t.events } ∧
      s.storesAt t (stackCell s.sp) v s.events := by
  intro t
  have hsp : s.sp - 1 = BitVec.ofNat 8 (s.sp.toNat + 255) := by
    apply BitVec.eq_of_toNat_eq
    rw [byte_sub_one_eq, BitVec.toNat_ofNat, BitVec.toNat_ofNat, Nat.mod_mod]
  have ht : t = (busWrite (stackCell s.sp) v s).setSp (s.sp - 1) := push_eq v s
  constructor
  · rw [← hsp]
    exact push_frame v s
  · rw [ht]
    exact busWrite_storesAt hwf rfl rfl (stackCell s.sp) v

/-- The status byte as a number: N V 1 b D I Z C from bit 7 down, over all values of the seven bits (R44). -/
theorem packP_eq (f : Flags) (b : Bool) : packP f b = BitVec.ofNat 8 (128 * f.n.toNat + 64 * f.v.toNat + 32 +
    16 * b.toNat + 8 * f.d.toNat + 4 * f.i.toNat + 2 * f.z.toNat + f.c.toNat) := by
  obtain ⟨c, z, i, d, b', v, n⟩ := f
  have hall : ∀ n v b d i z c : Bool, statusBit n 7 ||| statusBit v 6 ||| statusBit true 5 ||| statusBit b 4 |||
      statusBit d 3 ||| statusBit i 2 ||| statusBit z 1 ||| statusBit c 0 = BitVec.ofNat 8 (128 * n.toNat +
      64 * v.toNat + 32 + 16 * b.toNat + 8 * d.toNat + 4 * i.toNat + 2 * z.toNat + c.toNat) := by decide
  exact hall n v b d i z c

theorem exec_pha (s : State) : exec .pha s = .next (push s.a s) := rfl

theorem exec_php (s : State) : exec .php s = .next (push (packP s.flags true) s) := rfl

theorem exec_pla (s : State) : exec .pla s = .next (loadA (pull s).1 (pull s).2) := rfl

theorem exec_plp (s : State) : exec .plp s = .next ((pull s).2.setFlags (unpackP (pull s).1)) := rfl

/-- Settles O40: one push of A, or of the packed status byte. -/
theorem pushesWriteStackCell : Obligations.PushesWriteStackCell := by
  unfold Obligations.PushesWriteStackCell
  refine ⟨fun s hwf => ⟨?pha, ?php⟩, rfl, rfl⟩
  case pha => exact ⟨_, exec_pha s, push_storesAt hwf s.a⟩
  case php =>
    have hstatus := packP_eq s.flags true
    exact ⟨_, exec_php s, hstatus ▸ push_storesAt hwf (packP s.flags true)⟩

/-- Settles O41: one pull, into A with Z and N or into the flags. -/
theorem pullsReadStackCell : Obligations.PullsReadStackCell := by
  unfold Obligations.PullsReadStackCell
  refine ⟨fun s => ⟨?pla, ?plp⟩, rfl, rfl⟩
  case pla => rw [exec_pla, pull_eq, loadA_eq, busRead_frame]; rfl
  case plp => rw [exec_plp, pull_eq, busRead_frame]; rfl

/-- Of the eight bits a status bit has its own alone. -/
theorem statusBit_getLsbD (b : Bool) (place : Nat) {j : Nat} (hj : j < 8) :
    (statusBit b place).getLsbD j = (decide (j = place) && b) := by
  rw [statusBit, BitVec.getLsbD_shiftLeft, BitVec.getLsbD_setWidth, BitVec.getLsbD_ofBool]
  obtain hlt | rfl | hgt := Nat.lt_trichotomy j place
  · simp [hlt, hlt.ne]
  · simp [hj]
  · simp [hgt.ne', Nat.sub_ne_zero_of_lt hgt]

theorem packP_getLsbD (f : Flags) (b : Bool) {j : Nat} (hj : j < 8) : (packP f b).getLsbD j =
    (decide (j = 7) && f.n || decide (j = 6) && f.v || decide (j = 5) && true || decide (j = 4) && b ||
      decide (j = 3) && f.d || decide (j = 2) && f.i || decide (j = 1) && f.z || decide (j = 0) && f.c) := by
  simp only [packP, BitVec.getLsbD_or, statusBit_getLsbD _ _ hj]

/-- Unpacking a packed byte: each flag from its own bit, B the packed one. -/
theorem unpackP_packP (f : Flags) (b : Bool) : unpackP (packP f b) = { f with b := b } := by
  simp [unpackP, packP_getLsbD, -BitVec.getLsbD_eq_getElem]

/-- Settles O42: each flag has its bit, bit 5 is set and belongs to none. -/
theorem statusPackingRoundTrip : Obligations.StatusPackingRoundTrip := by
  unfold Obligations.StatusPackingRoundTrip
  refine ⟨fun f b => ⟨unpackP_packP f b, by simp [packP_getLsbD, -BitVec.getLsbD_eq_getElem]⟩, fun v => ?_⟩
  have hbit {j : Nat} (hj : (0x20 : Byte).getLsbD j = false) : (v ^^^ 0x20).getLsbD j = v.getLsbD j := by
    rw [BitVec.getLsbD_xor, hj, Bool.xor_false]
  simp only [unpackP, hbit (j := 0) rfl, hbit (j := 1) rfl, hbit (j := 2) rfl, hbit (j := 3) rfl, hbit (j := 4) rfl,
    hbit (j := 6) rfl, hbit (j := 7) rfl]

end Sys2Proof.Machine
end

section
/-! PROOFS. Subroutine: several bytes pushed, JSR, RTS, BRK and RTI (spec/48_subroutine_interrupt.md R330 to R333),
and the round trips through plain stack cells (R314, R331, spec/60_exceptions.md R407). -/

namespace Sys2Proof.Machine

/-- Bytes pushed one after the other. -/
def pushAll (bytes : List Byte) (s : State) : State := bytes.foldl (fun s v => push v s) s

theorem pushAll_cons (v : Byte) (rest : List Byte) (s : State) : pushAll (v :: rest) s = pushAll rest (push v s) := rfl

/-- The word push and the interrupt's three pushes as lists of bytes. -/
theorem push16_eq_pushAll (w : Word) (s : State) : push16 w s = pushAll [hiByte w, loByte w] s := rfl

/-- Pushing bytes from a value of S on leaves them in the cells from there downwards, and S that many below. -/
theorem pushAll_pushesBytes (bytes : List Byte) {s : State} (hwf : s.mem.wf = true) (sp : Byte) :
    ∃ u, s.pushesBytes sp bytes u ∧ pushAll bytes (s.setSp sp) = u.setSp (sp - BitVec.ofNat 8 bytes.length) := by
  induction bytes generalizing s sp with
  | nil => exact ⟨s, rfl, by simp [pushAll]⟩
  | cons v rest ih =>
    obtain ⟨u, hpushes, hstate⟩ := ih (busWrite_memWf (stackCell sp) v s hwf) (sp - 1)
    refine ⟨u, ⟨_, busWrite_frame (stackCell sp) v s, busWrite_storesAt hwf rfl rfl (stackCell sp) v, hpushes⟩, ?_⟩
    have hlen : sp - 1 - BitVec.ofNat 8 rest.length = sp - BitVec.ofNat 8 (rest.length + 1) := by
      rw [Nat.add_comm, BitVec.ofNat_add, sub_sub]
      rfl
    rw [pushAll_cons, push_eq, busWrite_setSp, List.length_cons, ← hlen]
    exact hstate

theorem hiByte_ofNat (n : Nat) : hiByte (BitVec.ofNat 16 n) = BitVec.ofNat 8 (n / 256) := by
  apply BitVec.eq_of_toNat_eq
  rw [hiByte_toNat, BitVec.toNat_ofNat, BitVec.toNat_ofNat]
  omega

theorem loByte_ofNat (n : Nat) : loByte (BitVec.ofNat 16 n) = BitVec.ofNat 8 n := by
  apply BitVec.eq_of_toNat_eq
  rw [loByte_toNat, BitVec.toNat_ofNat, BitVec.toNat_ofNat]
  omega

theorem word_sub_one_eq_ofNat (w : Word) : w - 1 = BitVec.ofNat 16 (w.toNat + 65535) := by
  have hone : (1 : Word).toNat = 1 := rfl
  apply BitVec.eq_of_toNat_eq
  rw [BitVec.toNat_sub, BitVec.toNat_ofNat, hone]
  omega

theorem exec_jsr (target : Word) (s : State) :
    exec (.jsr target) s = .next ((push16 (s.pc - 1) s).setPc target) := rfl

theorem exec_rts (s : State) : exec .rts s = .next ((pull16 s).2.setPc ((pull16 s).1 + 1)) := rfl

theorem encode_jsr (target : Word) : encode (.jsr target) = [0x20, loByte target, hiByte target] := rfl

/-- Settles O44: two pushes and a jump; two pulls and a jump. -/
theorem subroutineCallAndReturn : Obligations.SubroutineCallAndReturn := by
  unfold Obligations.SubroutineCallAndReturn
  refine ⟨?jsr, ?rts, ?encode, rfl⟩
  case jsr =>
    intro target s hwf back
    obtain ⟨u, hpushes, hstate⟩ := pushAll_pushesBytes [hiByte (s.pc - 1), loByte (s.pc - 1)] hwf s.sp
    have hpush : push16 (s.pc - 1) s = u.setSp (s.sp - 2) := hstate
    rw [word_sub_one_eq_ofNat, hiByte_ofNat, loByte_ofNat] at hpushes
    refine ⟨u, hpushes, ?_⟩
    rw [exec_jsr, hpush]
    rfl
  case rts =>
    intro s lo hi
    have hframe : hi.2 = { s with events := hi.2.events } := busRead_busRead_frame _ _ s
    have hpull : pull16 s = (wordOf lo.1 hi.1, hi.2.setSp (s.sp + 2)) := pull16_eq s
    rw [exec_rts, hpull, word_add_one_eq, hframe]
    rfl
  case encode =>
    intro target
    have hlo : loByte target = BitVec.ofNat 8 (target.toNat % 256) := by
      rw [← loByte_toNat, BitVec.ofNat_toNat, BitVec.setWidth_eq]
    have hhi : hiByte target = BitVec.ofNat 8 (target.toNat / 256) := by
      rw [← hiByte_toNat, BitVec.ofNat_toNat, BitVec.setWidth_eq]
    rw [encode_jsr, hlo, hhi]

/-- S does not reach a word read. -/
theorem busRead16_setSp (addr : Word) (s : State) (sp : Byte) :
    busRead16 addr (s.setSp sp) = ((busRead16 addr s).1, (busRead16 addr s).2.setSp sp) := by
  simp only [busRead16, busRead_setSp]

theorem exec_brk (s : State) : exec .brk s = .next (enterInterrupt (s.pc + 1) s) := rfl

/-- Settles O46: three pushes, a word read of the IRQ vector, and I. -/
theorem brkEntersThroughIrqVector : Obligations.BrkEntersThroughIrqVector := by
  unfold Obligations.BrkEntersThroughIrqVector
  refine ⟨?meaning, rfl⟩
  intro s hwf back p status
  obtain ⟨u, hpushes, hstate⟩ :=
    pushAll_pushesBytes [hiByte (s.pc + 1), loByte (s.pc + 1), packP s.flags true] hwf s.sp
  have hpush : push (packP s.flags true) (push16 (s.pc + 1) s) = u.setSp (s.sp - 3) := hstate
  have hnext : irqVector + 1 = 0xFFFF := rfl
  rw [word_add_one_eq, hiByte_ofNat, loByte_ofNat, packP_eq] at hpushes
  refine ⟨u, hpushes, ?_⟩
  rw [exec_brk, enterInterrupt, hpush, busRead16_setSp, busRead16_eq, hnext]
  rfl

theorem exec_rti (s : State) : exec .rti s = .next (returnFromInterrupt s) := rfl

/-- Settles O47: one pull into the flags, and a word pull into PC. -/
theorem rtiRestoresFlagsAndPc : Obligations.RtiRestoresFlagsAndPc := by
  unfold Obligations.RtiRestoresFlagsAndPc
  refine ⟨?meaning, rfl⟩
  intro s p lo hi
  have htwo : s.sp + 1 + 1 = s.sp + 2 := byte_add_one_add_one s.sp
  have hthree : s.sp + 1 + 2 = s.sp + 3 := BitVec.add_assoc s.sp 1 2
  have hreads : (returnFromInterrupt s).pc = wordOf lo.1 hi.1 ∧ (returnFromInterrupt s).events = hi.2.events := by
    simp only [returnFromInterrupt, pull_eq, pull16_eq, State.setFlags_sp, State.setSp_sp, busRead_setFlags,
      busRead_setSp, htwo, hthree]
    exact ⟨rfl, rfl⟩
  have hsp : s.sp + 1 + 1 + 1 = s.sp + 3 := by rw [htwo]; exact BitVec.add_assoc s.sp 2 1
  rw [exec_rti, returnFromInterrupt_frame, hreads.1, hreads.2, hsp, pull_eq]
  rfl

/-! Round trips: what the stack cells read after pushes into plain memory. -/

theorem stackCell_toNat_inj {sp sp' : Byte} : (stackCell sp).toNat = (stackCell sp').toNat ↔ sp = sp' := by
  rw [stackCell_toNat, stackCell_toNat, Nat.add_left_cancel_iff, BitVec.toNat_inj]

/-- After a push into a plain cell, every stack cell but that of S reads as before. -/
theorem push_read {s : State} (hwf : s.mem.wf = true) (hplain : s.plainAt (stackCell s.sp)) (v : Byte) (sp : Byte) :
    (push v s).mem.read (stackCell sp).toNat = if sp = s.sp then v else s.mem.read (stackCell sp).toNat := by
  rw [push_eq, busWrite_plain hplain]
  simp only [State.setSp_mem, State.setMem_mem, Memory.read_write hwf (stackCell s.sp).isLt, stackCell_toNat_inj]

theorem byte_sub_one_ne (b : Byte) : b - 1 ≠ b := by
  have hb := b.isLt
  rw [Ne, ← BitVec.toNat_inj, BitVec.toNat_sub, byte_one_toNat]
  omega

theorem byte_sub_one_sub_one (b : Byte) : b - 1 - 1 = b - 2 := sub_sub b 1 1

theorem byte_sub_two_ne (b : Byte) : b - 2 ≠ b := by
  have hb := b.isLt
  have htwo : (2 : Byte).toNat = 2 := rfl
  rw [Ne, ← BitVec.toNat_inj, BitVec.toNat_sub, htwo]
  omega

/-- After a word push into plain cells: its high byte in the cell of S, its low byte in the next one down. -/
theorem push16_read {s : State} (hwf : s.mem.wf = true) (hplain : s.plainAt (stackCell s.sp))
    (hplain' : s.plainAt (stackCell (s.sp - 1))) (w : Word) :
    (push16 w s).mem.read (stackCell s.sp).toNat = hiByte w ∧
      (push16 w s).mem.read (stackCell (s.sp - 1)).toNat = loByte w := by
  have hsecond : (push (hiByte w) s).plainAt (stackCell (push (hiByte w) s).sp) := by
    rw [State.plainAt, push_config]
    exact hplain'
  have hread := push_read (push_memWf (hiByte w) s hwf) hsecond (loByte w)
  have hfirst : (push (hiByte w) s).mem.read (stackCell s.sp).toNat = hiByte w := by
    rw [push_read hwf hplain, if_pos rfl]
  constructor
  · exact (hread s.sp).trans ((if_neg (byte_sub_one_ne s.sp).symm).trans hfirst)
  · exact (hread (s.sp - 1)).trans (if_pos rfl)

theorem pull_plain {s : State} (hplain : s.plainAt (stackCell (s.sp + 1))) :
    pull s = (s.mem.read (stackCell (s.sp + 1)).toNat, s.setSp (s.sp + 1)) := by
  rw [pull_eq, busRead_plain hplain]

/-- A word pull from plain cells that hold the bytes of a word: the word, and S two up. -/
theorem pull16_of_read {t : State} {sp : Byte} {w : Word} (hsp : t.sp + 2 = sp) (hplain : t.plainAt (stackCell sp))
    (hplain' : t.plainAt (stackCell (sp - 1))) (hhi : t.mem.read (stackCell sp).toNat = hiByte w)
    (hlo : t.mem.read (stackCell (sp - 1)).toNat = loByte w) : pull16 t = (w, t.setSp sp) := by
  have hone : t.sp + 1 = sp - 1 := by
    rw [← hsp, ← byte_add_one_add_one, BitVec.add_sub_cancel]
  have htwo : sp - 1 + 1 = sp := BitVec.sub_add_cancel sp 1
  have hlow : pull t = (loByte w, t.setSp (sp - 1)) := by
    rw [pull_plain (by rw [hone]; exact hplain'), hone, hlo]
  have hhigh : pull (t.setSp (sp - 1)) = (hiByte w, t.setSp sp) := by
    rw [pull_plain (s := t.setSp (sp - 1)) (by rw [State.setSp_sp, htwo]; exact hplain), State.setSp_sp, htwo,
      State.setSp_mem, hhi]
    rfl
  rw [pull16, hlow, hhigh, wordLE_bytes]

/-- A word pull from a state whose stack is as after the push of a word into plain cells. -/
theorem pull16_push16 {s t : State} (hwf : s.mem.wf = true) (hplain : s.plainAt (stackCell s.sp))
    (hplain' : s.plainAt (stackCell (s.sp - 1))) (w : Word) (hmem : t.mem = (push16 w s).mem)
    (hconfig : t.config = (push16 w s).config) (hsp : t.sp = (push16 w s).sp) : pull16 t = (w, t.setSp s.sp) := by
  obtain ⟨hhi, hlo⟩ := push16_read hwf hplain hplain' w
  rw [← hmem] at hhi hlo
  rw [push16_config] at hconfig
  have hback : t.sp + 2 = s.sp := by
    rw [hsp, push16_sp, ← byte_add_one_add_one, BitVec.sub_add_cancel, BitVec.sub_add_cancel]
  refine pull16_of_read hback ?_ ?_ hhi hlo
  · rw [State.plainAt, hconfig]; exact hplain
  · rw [State.plainAt, hconfig]; exact hplain'

/-- Settles O43: after the push the two cells hold the word, and S is two below. -/
theorem pushedWordIsPulledBack : Obligations.PushedWordIsPulledBack := by
  unfold Obligations.PushedWordIsPulledBack
  intro s w hwf hplain hplain'
  have hpull := pull16_push16 hwf hplain hplain' w rfl rfl rfl
  rw [hpull]
  exact ⟨rfl, rfl⟩

/-- Settles O45: JSR's word is PC - 1, and RTS continues one past it. -/
theorem rtsReturnsPastJsr : Obligations.RtsReturnsPastJsr := by
  unfold Obligations.RtsReturnsPastJsr
  intro target s hwf hplain hplain'
  have hexec : execAll [.jsr target, .rts] s = exec .rts ((push16 (s.pc - 1) s).setPc target) := rfl
  have hpull := pull16_push16 (t := (push16 (s.pc - 1) s).setPc target) hwf hplain hplain' (s.pc - 1) rfl rfl rfl
  refine ⟨_, hexec.trans (exec_rts _), ?_, ?_⟩ <;> rw [hpull]
  · exact BitVec.sub_add_cancel s.pc 1
  · rfl

/-- The interrupt entry leaves plain memory as its three pushes do: the vector read does not touch it. -/
theorem enterInterrupt_mem (ret : Word) (s : State) :
    (enterInterrupt ret s).mem = (push (packP s.flags true) (push16 ret s)).mem := by
  simp only [enterInterrupt, State.setFlags_mem, State.setPc_mem, busRead16_mem]

theorem enterInterrupt_sp (ret : Word) (s : State) : (enterInterrupt ret s).sp + 1 = s.sp - 2 := by
  rw [enterInterrupt_frame, ← byte_sub_one_sub_one]
  exact BitVec.sub_add_cancel _ 1

theorem enterInterrupt_plainAt {ret addr : Word} {s : State} :
    (enterInterrupt ret s).plainAt addr ↔ s.plainAt addr := by
  rw [State.plainAt, enterInterrupt_frame]
  rfl

/-- The stack cells after an interrupt entry whose last push goes to a plain cell: the status byte there, the word
push in the others. -/
theorem enterInterrupt_read {s : State} (hwf : s.mem.wf = true) (hplain : s.plainAt (stackCell (s.sp - 2))) (ret : Word)
    (sp : Byte) : (enterInterrupt ret s).mem.read (stackCell sp).toNat =
      if sp = s.sp - 2 then packP s.flags true else (push16 ret s).mem.read (stackCell sp).toNat := by
  have hlast : (push16 ret s).plainAt (stackCell (push16 ret s).sp) := by
    rw [State.plainAt, push16_config, push16_sp, byte_sub_one_sub_one]
    exact hplain
  rw [enterInterrupt_mem, push_read (push16_memWf ret s hwf) hlast, push16_sp, byte_sub_one_sub_one]

/-- The interrupt return after an entry through plain stack cells: all three pushes are pulled back. -/
theorem returnFromInterrupt_enterInterrupt {s : State} (hwf : s.mem.wf = true) (hplain : s.plainAt (stackCell s.sp))
    (hplain' : s.plainAt (stackCell (s.sp - 1))) (hplain'' : s.plainAt (stackCell (s.sp - 2))) (ret : Word) :
    returnFromInterrupt (enterInterrupt ret s) =
      (((enterInterrupt ret s).setFlags { s.flags with b := true }).setSp s.sp).setPc ret := by
  have hsp := enterInterrupt_sp ret s
  have hread := enterInterrupt_read hwf hplain'' ret
  obtain ⟨hhi, hlo⟩ := push16_read hwf hplain hplain' ret
  have hne : s.sp ≠ s.sp - 2 := (byte_sub_two_ne s.sp).symm
  have hne' : s.sp - 1 ≠ s.sp - 2 := by
    rw [← byte_sub_one_sub_one]
    exact (byte_sub_one_ne (s.sp - 1)).symm
  rw [← (hread s.sp).trans (if_neg hne)] at hhi
  rw [← (hread (s.sp - 1)).trans (if_neg hne')] at hlo
  have hstatus := (hread (s.sp - 2)).trans (if_pos rfl)
  rw [← enterInterrupt_plainAt (ret := ret)] at hplain hplain' hplain''
  generalize enterInterrupt ret s = t at *
  have hpull : pull t = (packP s.flags true, t.setSp (s.sp - 2)) := by
    rw [pull_plain (by rw [hsp]; exact hplain''), hsp, hstatus]
  have hpull16 : pull16 ((t.setSp (s.sp - 2)).setFlags { s.flags with b := true }) =
      (ret, ((t.setSp (s.sp - 2)).setFlags { s.flags with b := true }).setSp s.sp) :=
    pull16_of_read (BitVec.sub_add_cancel s.sp 2) hplain hplain' hhi hlo
  rw [returnFromInterrupt, hpull, unpackP_packP, hpull16]
  rfl

/-- Settles O48: RTI pulls back what BRK pushed. -/
theorem rtiAfterBrkRestores : Obligations.RtiAfterBrkRestores := by
  unfold Obligations.RtiAfterBrkRestores
  intro s hwf hplain hplain' hplain''
  have hexec : execAll [.brk, .rti] s = .next (returnFromInterrupt (enterInterrupt (s.pc + 1) s)) := rfl
  have hback := returnFromInterrupt_enterInterrupt hwf hplain hplain' hplain'' (s.pc + 1)
  refine ⟨_, hexec.trans (congrArg _ hback), rfl, rfl, rfl, ?_⟩
  rw [enterInterrupt_frame]
  exact ⟨rfl, rfl, rfl⟩

end Sys2Proof.Machine
end

section
/-! PROOFS. FlagEffect: what each meaning makes of the flags, as a function of the flags; which flags it may change
(spec/10_state.md R41); and that D, I and B reach nothing but themselves (R42, R43, R46, R47). -/

namespace Sys2Proof.Machine

/-- What an instruction makes of the flags, the bytes it works on being those of the state `s`. -/
def flagEffect (i : Instr) (s : State) (f : Flags) : Flags :=
  match i with
  | .lda o | .ldx o | .ldy o => setZN (loadOperand o s).1 f
  | .adc o => adcFlags s.a (loadOperand o s).1 f
  | .sbc o => adcFlags s.a (~~~(loadOperand o s).1) f
  | .and o => setZN (s.a &&& (loadOperand o s).1) f
  | .ora o => setZN (s.a ||| (loadOperand o s).1) f
  | .eor o => setZN (s.a ^^^ (loadOperand o s).1) f
  | .bit o => bitFlags s.a (loadOperand o s).1 f
  | .asl o => shiftFlags (operandByte o s).msb (aslByte (operandByte o s)) f
  | .lsr o => shiftFlags ((operandByte o s).getLsbD 0) (lsrByte (operandByte o s)) f
  | .rol o => shiftFlags (operandByte o s).msb (rolByte (operandByte o s) s.flags.c) f
  | .ror o => shiftFlags ((operandByte o s).getLsbD 0) (rorByte (operandByte o s) s.flags.c) f
  | .cmp o => compareFlags s.a (loadOperand o s).1 f
  | .cpx o => compareFlags s.x (loadOperand o s).1 f
  | .cpy o => compareFlags s.y (loadOperand o s).1 f
  | .inc o => setZN (operandByte o s + 1) f
  | .dec o => setZN (operandByte o s - 1) f
  | .inx => setZN (s.x + 1) f
  | .iny => setZN (s.y + 1) f
  | .dex => setZN (s.x - 1) f
  | .dey => setZN (s.y - 1) f
  | .pla => setZN (pull s).1 f
  | .plp | .rti => unpackP (pull s).1
  | .brk | .sei => { f with i := true }
  | .cli => { f with i := false }
  | .sec => { f with c := true }
  | .clc => { f with c := false }
  | .sed => { f with d := true }
  | .cld => { f with d := false }
  | .clv => { f with v := false }
  | .tax | .tay => setZN s.a f
  | .tsx => setZN s.sp f
  | .txa => setZN s.x f
  | .tya => setZN s.y f
  | .sta _ | .stx _ | .sty _ | .bcc _ | .bcs _ | .beq _ | .bne _ | .bmi _ | .bpl _ | .bvc _ | .bvs _ | .jmp _ | .pha
  | .php | .jsr _ | .rts | .txs | .nop | .kil | .undoc _ => f
where
  /-- The byte a read-modify-write reads. -/
  operandByte (o : Operand) (s : State) : Byte := (loadEa (effAddr o s).1 (effAddr o s).2).1

/-! The flags do not reach the operations: each runs the same from a state with other flags. -/

theorem loadOperand_setFlags (o : Operand) (s : State) (g : Flags) :
    loadOperand o (s.setFlags g) = ((loadOperand o s).1, (loadOperand o s).2.setFlags g) := by
  cases o
  case imm => rfl
  all_goals simp only [loadOperand, effAddr_setFlags, loadEa_setFlags]

theorem storeOperand_setFlags (o : Operand) (v : Byte) (s : State) (g : Flags) :
    storeOperand o v (s.setFlags g) = (storeOperand o v s).setFlags g := by
  simp only [storeOperand, effAddr_setFlags, storeEa_setFlags]

theorem State.setFlags_setFlags (s : State) (f g : Flags) : (s.setFlags f).setFlags g = s.setFlags g := rfl

/-- A read-modify-write: its flags are those of the byte read. -/
theorem modifyOperand_setFlags (o : Operand) (res : Byte → Byte) (fl : Byte → Flags → Flags) (s : State) (g : Flags) :
    modifyOperand o res fl (s.setFlags g) =
      (modifyOperand o res fl s).setFlags (fl (flagEffect.operandByte o s) g) := by
  simp only [modifyOperand, effAddr_setFlags, loadEa_setFlags, storeEa_setFlags, State.setFlags_setFlags,
    State.setFlags_flags, flagEffect.operandByte]

theorem modifyOperand_flags (o : Operand) (res : Byte → Byte) (fl : Byte → Flags → Flags) (s : State) :
    (modifyOperand o res fl s).flags = fl (flagEffect.operandByte o s) s.flags := by
  simp only [modifyOperand, State.setFlags_flags, storeEa_flags, loadEa_flags, effAddr_flags, flagEffect.operandByte]

theorem jumpTo_setFlags (o : Operand) (s : State) (g : Flags) :
    jumpTo o (s.setFlags g) = (jumpTo o s).setFlags g := by
  cases o <;> simp only [jumpTo, effAddr_setFlags] <;> rfl

theorem branchIf_setFlags (cond : Bool) (off : Byte) (s : State) (g : Flags) :
    branchIf cond off (s.setFlags g) = (branchIf cond off s).setFlags g := by
  cases cond <;> rfl

theorem push_setFlags (v : Byte) (s : State) (g : Flags) : push v (s.setFlags g) = (push v s).setFlags g := by
  simp only [push, State.setFlags_sp, busWrite_setFlags]
  rfl

theorem push16_setFlags (w : Word) (s : State) (g : Flags) : push16 w (s.setFlags g) = (push16 w s).setFlags g := by
  simp only [push16, push_setFlags]

theorem pull_setFlags (s : State) (g : Flags) : pull (s.setFlags g) = ((pull s).1, (pull s).2.setFlags g) :=
  busRead_setFlags (stackAddress (s.sp + 1)) (s.setSp (s.sp + 1)) g

theorem pull16_setFlags (s : State) (g : Flags) : pull16 (s.setFlags g) = ((pull16 s).1, (pull16 s).2.setFlags g) := by
  simp only [pull16, pull_setFlags]

theorem returnFromInterrupt_setFlags (s : State) (g : Flags) :
    returnFromInterrupt (s.setFlags g) = returnFromInterrupt s := by
  simp only [returnFromInterrupt, pull_setFlags, State.setFlags_setFlags]

theorem fetchOperandBytes_setFlags (n : Nat) (s : State) (g : Flags) :
    fetchOperandBytes n (s.setFlags g) = ((fetchOperandBytes n s).1, (fetchOperandBytes n s).2.setFlags g) := by
  have hfetch (u : State) : fetchByte (u.setFlags g) = ((fetchByte u).1, (fetchByte u).2.setFlags g) := by
    simp only [fetchByte, State.setFlags_pc, busRead_setFlags]
    rfl
  match n with
  | 0 => rfl
  | 1 => simp only [fetchOperandBytes, hfetch]
  | n + 2 => simp only [fetchOperandBytes, hfetch]

theorem resolve_setFlags (mode : Mode) (s : State) (g : Flags) :
    (resolve mode (s.setFlags g)).2 = (resolve mode s).2.setFlags g := by
  by_cases h : mode = .immediate
  · rw [h]
    rfl
  · simp only [resolve_eq_effAddr h, fetchOperand, fetchOperandBytes_setFlags, effAddr_setFlags]

/-- The effect is the one `exec` has. -/
theorem exec_flags {i : Instr} {s t : State} (h : exec i s = .next t) : t.flags = flagEffect i s s.flags := by
  cases i <;> obtain rfl := Host.Outcome.next.inj h
  case lda o | ldx o | ldy o | adc o | sbc o | and o | ora o | eor o =>
    simp only [flagEffect, loadA_flags, loadX_flags, loadY_flags, addToA, State.setFlags_flags, loadOperand_a,
      loadOperand_flags]
  case asl | lsr | rol | ror | inc | dec => exact modifyOperand_flags _ _ _ s
  case bcc | bcs | beq | bne | bmi | bpl | bvc | bvs =>
    simp only [branchIf_eq]
    split <;> rfl
  case rti => rw [returnFromInterrupt_frame]; rfl
  case pla => simp only [flagEffect, loadA_flags, pull_flags]
  case sta | stx | sty => exact storeOperand_flags _ _ s
  case jmp | jsr => simp only [flagEffect, jumpTo_flags, push16_flags]
  case pha | php => exact push_flags _ s
  case rts => exact pull16_flags s
  case undoc => exact resolve_flags _ s
  -- the others write the flags last, or not at all
  all_goals rfl

/-- A meaning other than PHP's and BRK's, run from a state with other D, I and B, does the same to everything but the
flags, and its effect to the flags. -/
theorem exec_setFlags {i : Instr} {s t : State} (hphp : i.mnemonic ≠ .php) (hbrk : i.mnemonic ≠ .brk)
    (h : exec i s = .next t) (d i' b : Bool) :
    let g := { s.flags with d := d, i := i', b := b }
    exec i (s.setFlags g) = .next (t.setFlags (flagEffect i s g)) := by
  intro g
  cases i <;> obtain rfl := Host.Outcome.next.inj h <;> refine congrArg Host.Outcome.next ?_
  case php => exact absurd rfl hphp
  case brk => exact absurd rfl hbrk
  case adc | sbc =>
    simp only [loadOperand_setFlags, addToA, State.setFlags_a, loadOperand_a, State.setFlags_flags, loadOperand_flags]
    rfl
  case lda | ldx | ldy | and | ora | eor | bit | cmp | cpx | cpy =>
    rw [loadOperand_setFlags]
    rfl
  case asl | lsr | rol | ror | inc | dec => exact modifyOperand_setFlags _ _ _ s g
  case sta | stx | sty => exact storeOperand_setFlags _ _ s g
  case bcc | bcs | beq | bne | bmi | bpl | bvc | bvs => exact branchIf_setFlags _ _ s g
  case jmp o => exact jumpTo_setFlags o s g
  case jsr target => exact congrArg (jumpTo (.abs target)) (push16_setFlags _ s g)
  case pha => exact push_setFlags _ s g
  case pla | plp => rw [pull_setFlags]; rfl
  case rts => rw [pull16_setFlags]; rfl
  case rti =>
    -- whatever the flags were, they are the pulled ones
    have hflags : (returnFromInterrupt s).flags = unpackP (pull s).1 := by rw [returnFromInterrupt_frame]
    exact (returnFromInterrupt_setFlags s g).trans (congrArg (returnFromInterrupt s).setFlags hflags)
  case undoc => exact resolve_setFlags _ s g
  -- the register and flag instructions look at C, Z, V and N alone
  all_goals rfl

/-- Equal C, Z, V and N, and equal D, I and B as far as asked. -/
def Flags.agree (onD onI onB : Prop) (f g : Flags) : Prop :=
  g.c = f.c ∧ g.z = f.z ∧ g.v = f.v ∧ g.n = f.n ∧ (onD → g.d = f.d) ∧ (onI → g.i = f.i) ∧ (onB → g.b = f.b)

/-- No effect lets one of D, I and B reach another flag: each computes C, Z, V and N from bytes and from C, and copies
D, I and B, sets them, or takes all flags from a pulled byte. -/
theorem flagEffect_agree {onD onI onB : Prop} {f g : Flags} (h : f.agree onD onI onB g) (i : Instr) (s : State) :
    (flagEffect i s f).agree onD onI onB (flagEffect i s g) := by
  obtain ⟨hc, hz, hv, hn, hd, hi, hb⟩ := h
  cases i
  all_goals
    simp only [Flags.agree, flagEffect, setZN, adcFlags, bitFlags, shiftFlags, compareFlags]
    simp_all

theorem Flags.eq_of_agree {f g : Flags} :
    (f.agree False True True g → g = { f with d := g.d }) ∧ (f.agree True False True g → g = { f with i := g.i }) ∧
      (f.agree True True False g → g = { f with b := g.b }) := by
  obtain ⟨c, z, i, d, b, v, n⟩ := f
  obtain ⟨c', z', i', d', b', v', n'⟩ := g
  simp only [Flags.agree, Flags.mk.injEq]
  tauto

/-- A meaning other than PHP's and BRK's from a state with other D, I and B: the same next state, up to flags that agree
where the flags before did. -/
theorem exec_agree {i : Instr} {s t : State} (hphp : i.mnemonic ≠ .php) (hbrk : i.mnemonic ≠ .brk)
    (h : exec i s = .next t) {onD onI onB : Prop} {d i' b : Bool}
    (hagree : s.flags.agree onD onI onB { s.flags with d := d, i := i', b := b }) :
    ∃ g, exec i (s.setFlags { s.flags with d := d, i := i', b := b }) = .next (t.setFlags g) ∧
      t.flags.agree onD onI onB g := by
  refine ⟨_, exec_setFlags hphp hbrk h d i' b, ?_⟩
  rw [exec_flags h]
  exact flagEffect_agree hagree i s

/-- Settles O31: the next states agree on all but the one flag. -/
theorem dAndIAndBSteerNothing : Obligations.DAndIAndBSteerNothing := by
  unfold Obligations.DAndIAndBSteerNothing
  intro i s x hphp hbrk
  obtain ⟨t, ht⟩ := exec_exists_next i s
  refine ⟨t, ht, ?d, ?i, ?b⟩
  case d =>
    have hbefore : s.flags.agree False True True { s.flags with d := x } := by simp [Flags.agree]
    obtain ⟨g, hexec, hagree⟩ := exec_agree hphp hbrk ht hbefore
    rw [Flags.eq_of_agree.1 hagree] at hexec
    exact ⟨g.d, hexec⟩
  case i =>
    have hbefore : s.flags.agree True False True { s.flags with i := x } := by simp [Flags.agree]
    obtain ⟨g, hexec, hagree⟩ := exec_agree hphp hbrk ht hbefore
    rw [Flags.eq_of_agree.2.1 hagree] at hexec
    exact ⟨g.i, hexec⟩
  case b =>
    have hbefore : s.flags.agree True True False { s.flags with b := x } := by simp [Flags.agree]
    obtain ⟨g, hexec, hagree⟩ := exec_agree hphp hbrk ht hbefore
    rw [Flags.eq_of_agree.2.2 hagree] at hexec
    exact ⟨g.b, hexec⟩

/-! Which effects may change each flag. Every other instruction's effect leaves the flag where it was. -/

theorem flagEffect_c (i : Instr) (s : State) (f : Flags) : (flagEffect i s f).c = f.c ∨ i.mnemonic ∈
    ([.adc, .sbc, .asl, .lsr, .rol, .ror, .cmp, .cpx, .cpy, .sec, .clc, .plp, .rti] : List Mnemonic) := by
  cases i
  case adc | sbc | asl | lsr | rol | ror | cmp | cpx | cpy | sec | clc | plp | rti =>
    exact .inr (by simp [Instr.mnemonic])
  all_goals exact .inl rfl

theorem flagEffect_zn (i : Instr) (s : State) (f : Flags) :
    (flagEffect i s f).z = f.z ∧ (flagEffect i s f).n = f.n ∨ i.mnemonic ∈
      ([.lda, .ldx, .ldy, .adc, .sbc, .and, .ora, .eor, .bit, .asl, .lsr, .rol, .ror, .cmp, .cpx, .cpy, .inc, .dec,
        .inx, .iny, .dex, .dey, .pla, .tax, .tay, .tsx, .txa, .tya, .plp, .rti] : List Mnemonic) := by
  cases i
  case sta | stx | sty | bcc | bcs | beq | bne | bmi | bpl | bvc | bvs | jmp | pha | php | jsr | rts | brk | sec | clc
      | sei | cli | sed | cld | clv | txs | nop | kil | undoc => exact .inl ⟨rfl, rfl⟩
  all_goals exact .inr (by simp [Instr.mnemonic])

theorem flagEffect_i (i : Instr) (s : State) (f : Flags) :
    (flagEffect i s f).i = f.i ∨ i.mnemonic ∈ ([.sei, .cli, .brk, .plp, .rti] : List Mnemonic) := by
  cases i
  case sei | cli | brk | plp | rti => exact .inr (by simp [Instr.mnemonic])
  all_goals exact .inl rfl

theorem flagEffect_d (i : Instr) (s : State) (f : Flags) :
    (flagEffect i s f).d = f.d ∨ i.mnemonic ∈ ([.sed, .cld, .plp, .rti] : List Mnemonic) := by
  cases i
  case sed | cld | plp | rti => exact .inr (by simp [Instr.mnemonic])
  all_goals exact .inl rfl

theorem flagEffect_b (i : Instr) (s : State) (f : Flags) :
    (flagEffect i s f).b = f.b ∨ i.mnemonic ∈ ([.plp, .rti] : List Mnemonic) := by
  cases i
  case plp | rti => exact .inr (by simp [Instr.mnemonic])
  all_goals exact .inl rfl

theorem flagEffect_v (i : Instr) (s : State) (f : Flags) :
    (flagEffect i s f).v = f.v ∨ i.mnemonic ∈ ([.adc, .sbc, .bit, .clv, .plp, .rti] : List Mnemonic) := by
  cases i
  case adc | sbc | bit | clv | plp | rti => exact .inr (by simp [Instr.mnemonic])
  all_goals exact .inl rfl

/-- Settles O52: the flags after a meaning are its effect on them, whose frame is said flag by flag. -/
theorem onlyListedInstructionsChangeFlags : Obligations.OnlyListedInstructionsChangeFlags := by
  unfold Obligations.OnlyListedInstructionsChangeFlags
  intro i s t h zn
  rw [exec_flags h]
  exact ⟨(flagEffect_c i s _).resolve_left, fun hz => (flagEffect_zn i s _).resolve_left fun h => hz h.1,
    fun hn => (flagEffect_zn i s _).resolve_left fun h => hn h.2, (flagEffect_i i s _).resolve_left,
    (flagEffect_d i s _).resolve_left, (flagEffect_b i s _).resolve_left, (flagEffect_v i s _).resolve_left⟩

end Sys2Proof.Machine
end

section
/-! PROOFS. RegisterEffect: which instructions may change each register, the Halted bit and plain memory
(spec/10_state.md R32 to R35, spec/40_dispatcher.md R146, spec/41_addressing.md R175), and that only KIL halts. -/

namespace Sys2Proof.Machine

/-! The fields that a branch, an addition to A, the interrupt entry and return, and the halt leave alone. -/

/-- A branch changes PC alone. -/
theorem branchIf_frame (cond : Bool) (off : Byte) (s : State) :
    branchIf cond off s = s.setPc (branchIf cond off s).pc := by
  cases cond <;> rfl

@[simp] theorem branchIf_a (cond : Bool) (off : Byte) (s : State) : (branchIf cond off s).a = s.a := by
  rw [branchIf_frame, State.setPc_a]
@[simp] theorem branchIf_x (cond : Bool) (off : Byte) (s : State) : (branchIf cond off s).x = s.x := by
  rw [branchIf_frame, State.setPc_x]
@[simp] theorem branchIf_y (cond : Bool) (off : Byte) (s : State) : (branchIf cond off s).y = s.y := by
  rw [branchIf_frame, State.setPc_y]
@[simp] theorem branchIf_sp (cond : Bool) (off : Byte) (s : State) : (branchIf cond off s).sp = s.sp := by
  rw [branchIf_frame, State.setPc_sp]
@[simp] theorem branchIf_mem (cond : Bool) (off : Byte) (s : State) : (branchIf cond off s).mem = s.mem := by
  rw [branchIf_frame, State.setPc_mem]
@[simp] theorem branchIf_halted (cond : Bool) (off : Byte) (s : State) : (branchIf cond off s).halted = s.halted := by
  rw [branchIf_frame, State.setPc_halted]

@[simp] theorem addToA_x (m : Byte) (s : State) : (addToA m s).x = s.x := rfl
@[simp] theorem addToA_y (m : Byte) (s : State) : (addToA m s).y = s.y := rfl
@[simp] theorem addToA_sp (m : Byte) (s : State) : (addToA m s).sp = s.sp := rfl
@[simp] theorem addToA_mem (m : Byte) (s : State) : (addToA m s).mem = s.mem := rfl
@[simp] theorem addToA_halted (m : Byte) (s : State) : (addToA m s).halted = s.halted := rfl

@[simp] theorem enterInterrupt_a (ret : Word) (s : State) : (enterInterrupt ret s).a = s.a := by
  rw [enterInterrupt_frame]
@[simp] theorem enterInterrupt_x (ret : Word) (s : State) : (enterInterrupt ret s).x = s.x := by
  rw [enterInterrupt_frame]
@[simp] theorem enterInterrupt_y (ret : Word) (s : State) : (enterInterrupt ret s).y = s.y := by
  rw [enterInterrupt_frame]
@[simp] theorem enterInterrupt_halted (ret : Word) (s : State) : (enterInterrupt ret s).halted = s.halted := by
  rw [enterInterrupt_frame]

@[simp] theorem returnFromInterrupt_a (s : State) : (returnFromInterrupt s).a = s.a := by
  rw [returnFromInterrupt_frame]
@[simp] theorem returnFromInterrupt_x (s : State) : (returnFromInterrupt s).x = s.x := by
  rw [returnFromInterrupt_frame]
@[simp] theorem returnFromInterrupt_y (s : State) : (returnFromInterrupt s).y = s.y := by
  rw [returnFromInterrupt_frame]
@[simp] theorem returnFromInterrupt_mem (s : State) : (returnFromInterrupt s).mem = s.mem := by
  rw [returnFromInterrupt_frame]
@[simp] theorem returnFromInterrupt_halted (s : State) : (returnFromInterrupt s).halted = s.halted := by
  rw [returnFromInterrupt_frame]

@[simp] theorem haltProcessor_a (s : State) : (haltProcessor s).a = s.a := rfl
@[simp] theorem haltProcessor_x (s : State) : (haltProcessor s).x = s.x := rfl
@[simp] theorem haltProcessor_y (s : State) : (haltProcessor s).y = s.y := rfl
@[simp] theorem haltProcessor_sp (s : State) : (haltProcessor s).sp = s.sp := rfl
@[simp] theorem haltProcessor_mem (s : State) : (haltProcessor s).mem = s.mem := rfl

/-! Where an operand is written: A, or memory, by its mode. -/

theorem storeOperand_a {o : Operand} (himp : o.mode ≠ .implicit) (hacc : o.mode ≠ .accumulator) (v : Byte) (s : State) :
    (storeOperand o v s).a = s.a := by
  cases o
  case implied => exact absurd rfl himp
  case acc => exact absurd rfl hacc
  all_goals simp [storeOperand, effAddr]

theorem modifyOperand_a {o : Operand} (himp : o.mode ≠ .implicit) (hacc : o.mode ≠ .accumulator) (res : Byte → Byte)
    (fl : Byte → Flags → Flags) (s : State) : (modifyOperand o res fl s).a = s.a := by
  cases o
  case implied => exact absurd rfl himp
  case acc => exact absurd rfl hacc
  all_goals simp [modifyOperand, effAddr]

theorem modifyOperand_mem_of_acc {o : Operand} (hacc : o.mode = .accumulator) (res : Byte → Byte)
    (fl : Byte → Flags → Flags) (s : State) : (modifyOperand o res fl s).mem = s.mem := by
  cases o
  case acc => rfl
  all_goals simp [Operand.mode] at hacc

theorem mode_mem_operandModes {i : Instr} (hundoc : i.mnemonic ≠ .undoc) (hwf : i.wellFormed = true) :
    i.mode ∈ i.mnemonic.operandModes := by
  rw [Instr.wellFormed_of_ne_undoc hundoc] at hwf
  exact List.contains_iff_mem.mp hwf

/-! What may change each field. -/

/-- A: the instructions that load it, and a shift or rotate of A. -/
theorem exec_a {i : Instr} {s t : State} (hwf : i.wellFormed = true) (h : exec i s = .next t) : t.a = s.a ∨
    i.mnemonic ∈ ([.lda, .adc, .sbc, .and, .ora, .eor, .pla, .txa, .tya] : List Mnemonic) ∨
      i.mnemonic ∈ ([.asl, .lsr, .rol, .ror] : List Mnemonic) ∧ i.mode = .accumulator := by
  have hmode := mode_mem_operandModes (i := i) (hwf := hwf)
  cases i <;> obtain rfl := Host.Outcome.next.inj h
  case lda | adc | sbc | and | ora | eor | pla | txa | tya => exact .inr (.inl (by simp [Instr.mnemonic]))
  case asl o | lsr o | rol o | ror o =>
    have himp : o.mode ≠ .implicit := ne_of_mem_of_not_mem (hmode (by simp [Instr.mnemonic]))
      (by simp [Instr.mnemonic, Mnemonic.operandModes])
    by_cases hacc : o.mode = .accumulator
    · exact .inr (.inr ⟨by simp [Instr.mnemonic], hacc⟩)
    · exact .inl (modifyOperand_a himp hacc _ _ s)
  case inc o | dec o =>
    have hmem := hmode (by simp [Instr.mnemonic])
    have himp : o.mode ≠ .implicit := ne_of_mem_of_not_mem hmem (by simp [Instr.mnemonic, Mnemonic.operandModes])
    have hacc : o.mode ≠ .accumulator := ne_of_mem_of_not_mem hmem (by simp [Instr.mnemonic, Mnemonic.operandModes])
    exact .inl (modifyOperand_a himp hacc _ _ s)
  case sta o | stx o | sty o =>
    have hmem := hmode (by simp [Instr.mnemonic])
    have himp : o.mode ≠ .implicit := ne_of_mem_of_not_mem hmem (by simp [Instr.mnemonic, Mnemonic.operandModes])
    have hacc : o.mode ≠ .accumulator := ne_of_mem_of_not_mem hmem (by simp [Instr.mnemonic, Mnemonic.operandModes])
    exact .inl (storeOperand_a himp hacc _ s)
  all_goals exact .inl (by simp)

theorem exec_x {i : Instr} {s t : State} (h : exec i s = .next t) :
    t.x = s.x ∨ i.mnemonic ∈ ([.ldx, .inx, .dex, .tax, .tsx] : List Mnemonic) := by
  cases i <;> obtain rfl := Host.Outcome.next.inj h
  case ldx | inx | dex | tax | tsx => exact .inr (by simp [Instr.mnemonic])
  all_goals exact .inl (by simp)

theorem exec_y {i : Instr} {s t : State} (h : exec i s = .next t) :
    t.y = s.y ∨ i.mnemonic ∈ ([.ldy, .iny, .dey, .tay] : List Mnemonic) := by
  cases i <;> obtain rfl := Host.Outcome.next.inj h
  case ldy | iny | dey | tay => exact .inr (by simp [Instr.mnemonic])
  all_goals exact .inl (by simp)

theorem exec_sp {i : Instr} {s t : State} (h : exec i s = .next t) :
    t.sp = s.sp ∨ i.mnemonic ∈ ([.txs, .pha, .php, .jsr, .brk, .pla, .plp, .rts, .rti] : List Mnemonic) := by
  cases i <;> obtain rfl := Host.Outcome.next.inj h
  case txs | pha | php | jsr | brk | pla | plp | rts | rti => exact .inr (by simp [Instr.mnemonic])
  all_goals exact .inl (by simp)

theorem exec_halted {i : Instr} {s t : State} (h : exec i s = .next t) : t.halted = s.halted ∨ i.mnemonic = .kil := by
  cases i <;> obtain rfl := Host.Outcome.next.inj h
  case kil => exact .inr rfl
  all_goals exact .inl (by simp)

/-- Plain memory: the stores, the pushes, and the read-modify-writes of memory. -/
theorem exec_mem {i : Instr} {s t : State} (h : exec i s = .next t) : t.mem = s.mem ∨
    i.mnemonic ∈ ([.sta, .stx, .sty, .inc, .dec, .pha, .php, .jsr, .brk] : List Mnemonic) ∨
      i.mnemonic ∈ ([.asl, .lsr, .rol, .ror] : List Mnemonic) ∧ i.mode ≠ .accumulator := by
  cases i <;> obtain rfl := Host.Outcome.next.inj h
  case sta | stx | sty | inc | dec | pha | php | jsr | brk => exact .inr (.inl (by simp [Instr.mnemonic]))
  case asl o | lsr o | rol o | ror o =>
    by_cases hacc : o.mode = .accumulator
    · exact .inl (modifyOperand_mem_of_acc hacc _ _ s)
    · exact .inr (.inr ⟨by simp [Instr.mnemonic], hacc⟩)
  all_goals exact .inl (by simp)

/-- Settles O53: the frame of each field, said instruction by instruction. -/
theorem onlyListedInstructionsChangeRegisters : Obligations.OnlyListedInstructionsChangeRegisters := by
  unfold Obligations.OnlyListedInstructionsChangeRegisters
  intro i s t hwf h
  refine ⟨(exec_a hwf h).resolve_left, (exec_x h).resolve_left, (exec_y h).resolve_left, (exec_sp h).resolve_left,
    (exec_halted h).resolve_left, ?_⟩
  rintro ⟨b, hb⟩
  exact (exec_mem h).resolve_left fun hmem => hb (by rw [hmem])

/-- From a state that is not halted, KIL alone leads to a halted one. -/
theorem exec_halted_iff {i : Instr} {s t : State} (hrun : s.halted = false) (h : exec i s = .next t) :
    t.halted = true ↔ i.mnemonic = .kil := by
  constructor
  · intro hhalted
    exact (exec_halted h).resolve_left fun heq => by simp [heq, hrun] at hhalted
  · intro hkil
    cases i
    case kil =>
      obtain rfl := Host.Outcome.next.inj h
      rfl
    all_goals simp [Instr.mnemonic] at hkil

/-- Settles O57: the reset load does not halt; of the meanings only KIL's does, and KIL is the byte 0x02. -/
theorem onlyKilHalts : Obligations.OnlyKilHalts := by
  unfold Obligations.OnlyKilHalts
  intro s t hrun hstep
  by_cases hpc : s.pc = 0x0000
  · rw [step_of_pc_eq_zero hrun hpc] at hstep
    obtain rfl := Host.Outcome.next.inj hstep
    rw [resetLoad_frame]
    simp [hrun, hpc]
  · rw [step_of_pc_ne_zero hrun hpc] at hstep
    have hfetched : (fetchInstr s).2.halted = false := by rw [fetchInstr_frame, hrun]
    have hmnemonic : (fetchInstr s).1.mnemonic = (opcode (busRead s.pc s).1).1 := assemble_mnemonic _ _ _ _
    rw [exec_halted_iff hfetched hstep, hmnemonic, opcode_fst_eq_kil_iff]
    exact ⟨fun hop => ⟨hpc, hop⟩, fun h => h.2⟩

end Sys2Proof.Machine
end

section
/-! PROOFS. Boot: the host's writes before the first cycle, on a machine without overlays, and the reset load after them
(spec/70_reset_and_hazards.md R431, R433). -/

namespace Sys2Proof.Machine

/-- A run of byte writes changes plain memory and the record alone. -/
theorem writeBytes_frame (addr : Word) (bytes : List Byte) (s : State) : writeBytes addr bytes s =
    { s with mem := (writeBytes addr bytes s).mem, events := (writeBytes addr bytes s).events } := by
  induction bytes generalizing addr s with
  | nil => rfl
  | cons b rest ih =>
    rw [writeBytes, ih, writeByte, busWrite_frame]

theorem loadImage_frame (image : Image) (s : State) : loadImage image s =
    { s with mem := (loadImage image s).mem, events := (loadImage image s).events } := by
  induction image generalizing s with
  | nil => rfl
  | cons piece rest ih =>
    rw [loadImage, ih, writeBytes_frame]

theorem KeptByAccesses.writeBytes {K : State → Prop} (hK : KeptByAccesses K) (addr : Word) (bytes : List Byte)
    {s : State} (h : K s) : K (writeBytes addr bytes s) := by
  induction bytes generalizing addr s with
  | nil => exact h
  | cons b rest ih => exact ih (addr + 1) (hK.write addr b h)

theorem KeptByAccesses.loadImage {K : State → Prop} (hK : KeptByAccesses K) (image : Image) {s : State} (h : K s) :
    K (loadImage image s) := by
  induction image generalizing s with
  | nil => exact h
  | cons piece rest ih => exact ih (hK.writeBytes piece.1 piece.2 h)

/-- A vector written to plain memory: its low byte in the slot, its high byte in the next cell, the rest as before. -/
theorem writeVector_plain {s : State} (hover : s.config.overlays = []) (hwf : s.mem.wf = true) (slot w : Word) :
    ∃ m : Memory, writeVector slot w s = s.setMem m ∧ m.wf = true ∧
      ∀ b, m.read b = if b = (slot + 1).toNat then hiByte w else if b = slot.toNat then loByte w else s.mem.read b := by
  have hlo : busWrite slot (loByte w) s = s.setMem (s.mem.write slot.toNat (loByte w)) :=
    busWrite_plain (plainAt_of_no_overlays hover slot)
  have hwf' : (s.mem.write slot.toNat (loByte w)).wf = true := Memory.wf_write hwf slot.isLt _
  refine ⟨(s.mem.write slot.toNat (loByte w)).write (slot + 1).toNat (hiByte w), ?_, ?_, ?_⟩
  · simp only [writeVector, writeBytes, writeByte, hlo]
    exact busWrite_plain (s := s.setMem _) (plainAt_of_no_overlays hover (slot + 1))
  · exact Memory.wf_write hwf' (slot + 1).isLt _
  · intro b
    rw [Memory.read_write hwf' (slot + 1).isLt, Memory.read_write hwf slot.isLt]

/-- The two vectors are the last writes, at four different cells, so each reads as written. -/
theorem vectors_read {loaded : State} (hover : loaded.config.overlays = []) (hwf : loaded.mem.wf = true)
    (reset irq : Word) : ∃ m : Memory, setIrqVector irq (setResetVector reset loaded) = loaded.setMem m ∧
      busRead16 resetVector (loaded.setMem m) = (reset, loaded.setMem m) ∧
      busRead16 irqVector (loaded.setMem m) = (irq, loaded.setMem m) := by
  obtain ⟨m, hreset, hmwf, hmread⟩ := writeVector_plain hover hwf resetVector reset
  obtain ⟨m', hirq, -, hread⟩ := writeVector_plain (s := loaded.setMem m) hover hmwf irqVector irq
  have hplain (addr : Word) : (loaded.setMem m').plainAt addr := plainAt_of_no_overlays hover addr
  refine ⟨m', ?_, ?_, ?_⟩
  · rw [setIrqVector, setResetVector, hreset, hirq]
    rfl
  · rw [busRead16_plain (hplain _) (hplain _), State.setMem_mem, hread, hread, State.setMem_mem, hmread, hmread]
    exact Prod.ext (wordLE_bytes reset) rfl
  · rw [busRead16_plain (hplain _) (hplain _), State.setMem_mem, hread, hread]
    exact Prod.ext (wordLE_bytes irq) rfl

/-- Settles O60: loading an image writes plain memory alone, so the first cycle is the reset load of the vector
written. -/
theorem bootThenResetLoad : Obligations.BootThenResetLoad := by
  unfold Obligations.BootThenResetLoad
  intro initA initX initY image reset irq undocModes s
  let start := State.powerOn initA initX initY { overlays := [], undocModes := undocModes }
  have hframe := loadImage_frame image start
  have hover : (loadImage image start).config.overlays = [] := by rw [hframe]; rfl
  have hpc : (loadImage image start).pc = 0x0000 := by rw [hframe]; rfl
  have hrun : (loadImage image start).halted = false := by rw [hframe]; rfl
  have hwf : (loadImage image start).mem.wf = true := (inv_keptByAccesses.loadImage image (powerOn_inv _ _ _ _)).1
  obtain ⟨m, hs, hreset, hirq⟩ := vectors_read hover hwf reset irq
  have hboot : s = (loadImage image start).setMem m := hs
  rw [hboot, step_of_pc_eq_zero (s := (loadImage image start).setMem m) hrun hpc, resetLoad, hreset, getIrqVector, hirq]
  exact ⟨rfl, rfl⟩

end Sys2Proof.Machine
end
